-- ==== Sys2Proof/Word.lean ====
section
/-! DEFINITION. Word.lean: the one value type the codec computes with, the unsigned byte (00_scope.md R6, R7).
Counts and indices are plain naturals (R7), so no other word type is needed. -/

namespace Sys2Proof

/-- An unsigned 8-bit value 0x00 to 0xFF (00_scope.md R7). Bit 0 is the least significant (R8). -/
abbrev Byte := BitVec 8

end Sys2Proof
end

