-- ==== Sys2Proof/Config.lean ====
section
/-! DEFINITION. Config.lean: the parameters of a parser session (00_scope.md R5, 10_state.md R20, R21).
They are loaded by RESET and held in State, so nothing here is fixed for the machine and the model needs no
opaque constant: the spec leaves no value open after an operation. -/

namespace Sys2Proof

/-- `RX_CAP`: unbounded, or a number of unconsumed bytes (10_state.md R21, register 3). -/
inductive Capacity where
  | inf
  | bytes (n : Nat)
deriving DecidableEq, Repr

/-- `BCAST_DEVTYPE`: what the encoder writes in the device-type byte of a broadcast long address
(10_state.md R21, register 4: EMIT = 0, ZERO = 1). -/
inductive BcastDevType where
  | emit
  | zero
deriving DecidableEq, Repr

/-- The configuration registers of 10_state.md R21, in the order of their numbers 0 to 4. -/
structure Config where
  /-- Register 0, `MIN_PRE`. -/
  minPre : Nat
  /-- Register 1, `MAX_PRE`. -/
  maxPre : Nat
  /-- Register 2, `MAX_BC`, 8 bits wide. -/
  maxBc : Byte
  /-- Register 3, `RX_CAP`. -/
  rxCap : Capacity
  /-- Register 4, `BCAST_DEVTYPE`. -/
  bcast : BcastDevType
deriving DecidableEq, Repr

/-- The default configuration (00_scope.md R5): 2, 32, 255, INF, EMIT. -/
def Config.default : Config :=
  { minPre := 2, maxPre := 32, maxBc := 0xFF#8, rxCap := .inf, bcast := .emit }

end Sys2Proof
end

