-- ==== Sys2Proof/Syntax.lean ====
section
/-! DEFINITION. Syntax.lean: the host's operations as syntax. One constructor of `Instr` per row of
spec/opcode_table.json (30_encoding.md R56), the operand types of R59, and the command the host sends (R57). -/

namespace Sys2Proof

/-- An address descriptor (30_encoding.md R59): "tagged union/sum type over exactly the two shapes". The
numeric fields are naturals, so that the range checks of 40_checksum_address.md R68 can fail. -/
inductive AddressDesc where
  | short (primaryMaster : Bool) (slave : Nat)
  | long (primaryMaster slaveBurst : Bool) (mfgId deviceType identificationNumber : Nat) (broadcast : Bool)
deriving DecidableEq, Repr

/-- An outbound frame descriptor (30_encoding.md R59). It has no checksum field: the encoder computes it. -/
structure FrameDesc where
  frameType : Nat
  address : AddressDesc
  command : Nat
  payload : List Byte
deriving DecidableEq, Repr

/-- The operand of RESET (70_reset_and_hazards.md R111): each field may be omitted and then takes its default. -/
structure ConfigOperand where
  minPre : Option Nat := none
  maxPre : Option Nat := none
  maxBc : Option Nat := none
  rxCap : Option Capacity := none
  bcast : Option BcastDevType := none
deriving DecidableEq, Repr

/-- The operations of 30_encoding.md R56, in the order of the table, with their operands. -/
inductive Instr where
  | reset (cfg : ConfigOperand)
  | checksum (bytes : List Byte)
  | encodeAddress (a : AddressDesc)
  | encode (f : FrameDesc) (npre : Nat)
  | feed (bytes : List Byte)
  | nextFrame
  | wants
  | advance (n : Nat)
  | compact
deriving DecidableEq, Repr

/-- The typed values that travel beside the operation code (30_encoding.md R57), one lane per operand kind.
An operation reads its own lanes and no other. DESIGN CHOICE (log 5): the lanes. -/
structure Operands where
  cfg : ConfigOperand
  bytes : List Byte
  address : AddressDesc
  frame : FrameDesc
  npre : Nat
  count : Nat
deriving DecidableEq, Repr

/-- Lanes that carry nothing: every field omitted, empty, false or 0. DESIGN CHOICE (log 5). -/
def Operands.idle : Operands :=
  { cfg := {}, bytes := [], address := .short false 0,
    frame := { frameType := 0, address := .short false 0, command := 0, payload := [] }, npre := 0, count := 0 }

/-- A command in format HOP8 (30_encoding.md R57): the operation code, its operands beside it, and whether
the host began it while another operation was in progress on the same session
(70_reset_and_hazards.md R115; DESIGN CHOICE, log 6). -/
structure Command where
  op : Byte
  operands : Operands
  overlapping : Bool
deriving DecidableEq, Repr

/-- Why an operation is refused (60_exceptions.md R97). -/
inductive RefusalReason where
  /-- FEED would leave more unconsumed bytes than a finite `RX_CAP` (42_stream_parser.md R90). -/
  | rxOverflow
  /-- The operation code selects no operation (30_encoding.md R58). -/
  | badOpcode
  /-- RESET with a configuration that breaks 10_state.md R20. -/
  | illegalConfig
  /-- An operation begun on a session while another is in progress on it (70_reset_and_hazards.md R115). -/
  | concurrentInvocation
  /-- A parser operation on a session that no RESET has created (70_reset_and_hazards.md R113). -/
  | noSession
deriving DecidableEq, Repr

/-- The pseudo-operations of 30_encoding.md R62. -/
inductive PseudoOp where
  | resync
  | resetParse
deriving DecidableEq, Repr

end Sys2Proof
end

