-- ==== Sys2Proof/WellFormed.lean ====
section
/-! DEFINITION. WellFormed.lean: which operations carry operands inside the ranges the spec gives them, and which
commands are written in the one canonical way. Neither stops the machine: an operation with an operand out of
range still runs, and its meaning answers the construction error or the refusal the spec names. -/

namespace Sys2Proof

/-- The ranges of an address descriptor's fields (40_checksum_address.md R68). -/
abbrev AddressDesc.WellFormed : AddressDesc → Prop
  | .short _ slave => slave ≤ 63
  | .long _ _ mfgId deviceType identificationNumber _ =>
    mfgId ≤ 63 ∧ deviceType ≤ 255 ∧ identificationNumber ≤ 16777215

/-- The address variant agrees with bit 7 of the frame type (41_frame_encoder.md R75). -/
abbrev FrameDesc.WidthConsistent (f : FrameDesc) : Prop :=
  match f.address with
  | .short .. => f.frameType = 0x02 ∨ f.frameType = 0x06
  | .long .. => f.frameType = 0x82 ∨ f.frameType = 0x86

/-- What the encoder accepts of a frame descriptor (41_frame_encoder.md R74 to R77). -/
abbrev FrameDesc.WellFormed (f : FrameDesc) : Prop :=
  f.WidthConsistent ∧ f.address.WellFormed ∧ f.command ≤ 255 ∧ f.payload.length ≤ 255

/-- A legal configuration, with the defaults of 00_scope.md R5 for the omitted fields (10_state.md R20). -/
abbrev ConfigOperand.WellFormed (c : ConfigOperand) : Prop :=
  c.minPre.getD 2 ≤ c.maxPre.getD 32 ∧ c.maxBc.getD 255 ≤ 255 ∧
    match c.rxCap with
    | some (.bytes n) => 5 ≤ n ∧ c.maxBc.getD 255 ≤ n
    | _ => True

/-- An operation whose operands lie in the ranges the spec gives them. -/
abbrev Instr.WellFormed : Instr → Prop
  | .reset cfg => cfg.WellFormed
  | .checksum _ => True
  | .encodeAddress a => a.WellFormed
  | .encode f npre => f.WellFormed ∧ 2 ≤ npre
  | .feed _ => True
  | .nextFrame => True
  | .wants => True
  | .advance _ => True
  | .compact => True

/-- A command written canonically: its code is one of the nine of 30_encoding.md R56, the lanes its
operation does not read are idle, and it was begun with no other operation in progress. -/
abbrev Command.WellFormed (c : Command) : Prop :=
  c.overlapping = false ∧
    let o := c.operands
    (c.op = 0x00#8 ∧ o = { Operands.idle with cfg := o.cfg } ∨
     c.op = 0x01#8 ∧ o = { Operands.idle with bytes := o.bytes } ∨
     c.op = 0x02#8 ∧ o = { Operands.idle with address := o.address } ∨
     c.op = 0x03#8 ∧ o = { Operands.idle with frame := o.frame, npre := o.npre } ∨
     c.op = 0x10#8 ∧ o = { Operands.idle with bytes := o.bytes } ∨
     c.op = 0x11#8 ∧ o = Operands.idle ∨
     c.op = 0x12#8 ∧ o = Operands.idle ∨
     c.op = 0x13#8 ∧ o = { Operands.idle with count := o.count } ∨
     c.op = 0x14#8 ∧ o = Operands.idle)

end Sys2Proof
end

