-- ==== Sys2Proof/Decode.lean ====
section
/-! DEFINITION. Decode.lean: from the host's command to an operation and back (30_encoding.md R56 to R58, R62).
Decoding is total: a code of the table gives its operation, every other code is refused BAD_OPCODE. -/

namespace Sys2Proof

/-- The operation a command selects (30_encoding.md R56, R57). Every code of no operation is refused by name
(R58). The operands are the lanes that operation reads; the other lanes are not looked at. -/
def decode (c : Command) : Except RefusalReason Instr :=
  match c.op.toNat with
  | 0x00 => .ok (.reset c.operands.cfg)
  | 0x01 => .ok (.checksum c.operands.bytes)
  | 0x02 => .ok (.encodeAddress c.operands.address)
  | 0x03 => .ok (.encode c.operands.frame c.operands.npre)
  | 0x10 => .ok (.feed c.operands.bytes)
  | 0x11 => .ok .nextFrame
  | 0x12 => .ok .wants
  | 0x13 => .ok (.advance c.operands.count)
  | 0x14 => .ok .compact
  | _ => .error .badOpcode

/-- The operation code of an operation (30_encoding.md R56). -/
def opcode : Instr → Byte
  | .reset _ => 0x00#8
  | .checksum _ => 0x01#8
  | .encodeAddress _ => 0x02#8
  | .encode _ _ => 0x03#8
  | .feed _ => 0x10#8
  | .nextFrame => 0x11#8
  | .wants => 0x12#8
  | .advance _ => 0x13#8
  | .compact => 0x14#8

/-- The operand lanes of an operation, the lanes it does not read idle (30_encoding.md R57, R59). -/
def operandsOf : Instr → Operands
  | .reset cfg => { Operands.idle with cfg := cfg }
  | .checksum bytes => { Operands.idle with bytes := bytes }
  | .encodeAddress a => { Operands.idle with address := a }
  | .encode f npre => { Operands.idle with frame := f, npre := npre }
  | .feed bytes => { Operands.idle with bytes := bytes }
  | .nextFrame => Operands.idle
  | .wants => Operands.idle
  | .advance n => { Operands.idle with count := n }
  | .compact => Operands.idle

/-- The command that selects an operation (30_encoding.md R56, R57), begun with nothing else in progress. -/
def encode (i : Instr) : Command :=
  { op := opcode i, operands := operandsOf i, overlapping := false }

/-- Whether an operation acts on a session. The encoder's three do not: "being stateless, may be used from any
number of callers" (70_reset_and_hazards.md R115). -/
def onSession : Instr → Bool
  | .reset _ => true
  | .checksum _ => false
  | .encodeAddress _ => false
  | .encode _ _ => false
  | .feed _ => true
  | .nextFrame => true
  | .wants => true
  | .advance _ => true
  | .compact => true

/-- The operation to run for a command, or why it is refused before it begins: its code selects none
(30_encoding.md R58), or it overlaps another operation on its session (70_reset_and_hazards.md R115). A code
of no operation is refused as such, overlapping or not (DESIGN CHOICE, log 12). -/
def accept (c : Command) : Except RefusalReason Instr :=
  match decode c with
  | .error r => .error r
  | .ok i => if c.overlapping && onSession i then .error .concurrentInvocation else .ok i

/-- The command a bare operation code stands for: its operand lanes idle (log 5). -/
def commandOfWord (w : Nat) : Command :=
  { op := BitVec.ofNat 8 w, operands := Operands.idle, overlapping := false }

/-- What the decoder reads from the bits `w` of a row of spec/opcode_table.json, all of which are one byte wide
(format HOP8, 30_encoding.md R57). -/
def decodeTableWord (nbits w : Nat) : Option Instr :=
  if nbits = 8 ∧ w < 256 then
    match decode (commandOfWord w) with
    | .ok i => some i
    | .error _ => none
  else none

/-- The exact expansion of a pseudo-operation (30_encoding.md R62). -/
def expand : PseudoOp → List Instr
  | .resync => [.advance 1, .nextFrame]
  | .resetParse => [.advance 0]

end Sys2Proof
end

