-- ==== Sys2Proof/Machine/State.lean ====
section
/-! DEFINITION. Machine/State.lean: the state of the codec as plain data (10_state.md), the results an operation
returns (00_scope.md R10, 30_encoding.md R60, 60_exceptions.md R98 to R100), and the state after reset. -/

namespace Sys2Proof.Machine

open Sys2Proof

/-- The parser's state (10_state.md R14), in the spec's order. -/
inductive ParseState where
  | preamble
  | frameType
  | address
  | command
  | byteCount
  | data
  | checksum
deriving DecidableEq, Repr

/-- An address width: 1 byte (the Short variant) or 5 bytes (the Long variant) (10_state.md R13, R16). -/
inductive AddressWidth where
  | one
  | five
deriving DecidableEq, Repr

/-- A complete validated frame (30_encoding.md R60). -/
structure ParsedFrame where
  frameType : Byte
  address : List Byte
  command : Byte
  byteCount : Byte
  payload : List Byte
  checksum : Byte
deriving DecidableEq, Repr

/-- A protocol violation with its information (60_exceptions.md R98, R99). -/
inductive Violation where
  | insufficientPreamble (byte : Byte) (count : Nat)
  | preambleTooLong (byte : Byte) (count : Nat)
  | invalidDelimiter (byte : Byte)
  | byteCountTooLarge (byteCount max : Byte)
  | checksumMismatch (computed received : Byte)
deriving DecidableEq, Repr

/-- The operand a FIELD_OUT_OF_RANGE names (60_exceptions.md R100). -/
inductive OperandField where
  | slave
  | mfgId
  | deviceType
  | identificationNumber
  | command
deriving DecidableEq, Repr

/-- A construction error with its information (60_exceptions.md R100). -/
inductive ConstructionError where
  | preambleTooShort (npre : Nat)
  | invalidFrameType (frameType : Nat)
  | addressWidthMismatch (frameType : Nat) (variant : AddressWidth)
  | fieldOutOfRange (field : OperandField) (value : Nat)
  | payloadTooLong (length : Nat)
deriving DecidableEq, Repr

/-- What an operation returns to the host (30_encoding.md R56). `done` is the result of RESET, ADVANCE and
COMPACT, which the table calls "none". -/
inductive Result where
  | done
  | byte (b : Byte)
  | bytes (bs : List Byte)
  | constructionError (e : ConstructionError)
  | frame (p : ParsedFrame)
  | needMore
  | violation (v : Violation)
  | count (n : Nat)
deriving DecidableEq, Repr

/-- A field of the session that may hold no value (10_state.md R28). -/
inductive SessionField where
  | ftype
  | awidth
  | addr
  | cmd
  | bc
  | data
deriving DecidableEq, Repr

/-- Why the machine stops with a fault. -/
inductive Fault where
  /-- The scan read a field that holds ⊥ (10_state.md R28, 93_implementation_defined.md I8). Raised by the scan's
  states ADDRESS, DATA and CHECKSUM, and so by FEED, NEXT_FRAME and WANTS. Safe: it stops where the rules
  never come, which `State.Inv` rules out (log 9). -/
  | emptyField (f : SessionField)
deriving DecidableEq, Repr

/-- Why the machine gives an operation no meaning. The refusals of 60_exceptions.md R97 are not here: they
have an effect, the mark, and are next states (log 1). -/
inductive Refusal where
  /-- An operation without a meaning in the model. No arm of `exec` raises it. Safe. -/
  | notModelled (mnemonic : String)
deriving DecidableEq, Repr

/-- How a scan ends (42_stream_parser.md R81): the three outcomes of 00_scope.md R10, and the read of an empty
field, which no rule reaches. -/
inductive ScanOutcome where
  | frame (p : ParsedFrame)
  | needMore (k : Nat)
  | violation (v : Violation)
  | emptyField (f : SessionField)
deriving DecidableEq, Repr

/-- A parser session's state, the record of 10_state.md R13. `none` is the spec's ⊥. -/
structure Session where
  /-- The parser's current state. -/
  st : ParseState
  /-- The consecutive 0xFF bytes PREAMBLE has consumed since the last parse-state reset (R15). -/
  pcount : Nat
  /-- The frame-type byte (R16). -/
  ftype : Option Byte
  /-- The address width `ftype` selects (R16). -/
  awidth : Option AddressWidth
  /-- The raw address bytes in wire order (R17). -/
  addr : Option (List Byte)
  /-- The command byte (R18). -/
  cmd : Option Byte
  /-- The byte-count byte (R18). -/
  bc : Option Byte
  /-- The payload buffer (R19). -/
  data : Option (List Byte)
  /-- The raw receive buffer (R22). -/
  buf : List Byte
  /-- The index in `buf` of the first unconsumed byte (R22, R25). -/
  cur : Nat
  /-- The refusal mark (R23). -/
  refused : Bool
  /-- The configuration registers (R21). -/
  cfg : Config
deriving DecidableEq, Repr

/-- The values of a session right after its creation with configuration `cfg` (10_state.md R29). -/
def Session.fresh (cfg : Config) : Session :=
  { st := .preamble, pcount := 0, ftype := none, awidth := none, addr := none, cmd := none, bc := none,
    data := none, buf := [], cur := 0, refused := false, cfg := cfg }

/-- The machine: one session, whether a RESET has created it, and the host's side of the interface. -/
structure State where
  /-- Whether a RESET has created the session (70_reset_and_hazards.md R113). -/
  created : Bool
  session : Session
  /-- The commands the host has invoked that have not run, oldest first (model's own, log 3). -/
  pending : List Command
  /-- The results returned so far, oldest first (70_reset_and_hazards.md R124; model's own, log 4). No
  operation reads it. -/
  results : List Result
  /-- The reasons of the refusals so far, oldest first (60_exceptions.md R97; model's own, log 4). No
  operation reads it. -/
  refusals : List RefusalReason
deriving DecidableEq, Repr

/-- The state after reset: a session created with the default configuration, every field at the value of
10_state.md R29, nothing invoked and nothing returned yet (log 2). -/
def State.reset : State :=
  { created := true, session := Session.fresh Config.default, pending := [], results := [], refusals := [] }

/-- The state before any RESET, "no session" (95_test_vectors.md section 3, 70_reset_and_hazards.md R113). The
session's fields are not looked at there but for `BCAST_DEVTYPE`, which is its default (log 2, log 7). -/
def State.noSession : State :=
  { created := false, session := Session.fresh Config.default, pending := [], results := [], refusals := [] }

end Sys2Proof.Machine
end

