-- ==== Sys2Proof/Machine/Flags.lean ====
section
/-! DEFINITION. Machine/Flags.lean: the block has no flag register (10_state.md R26). Here stand the checks and codes
that take the place of flags: the checksum, the delimiter test, the address-width selection, and the numeric
codes of states, violations, construction errors and configuration registers. -/

namespace Sys2Proof.Machine

open Sys2Proof

/-- The XOR-fold of a byte sequence (40_checksum_address.md R63). -/
def xorfold (bytes : List Byte) : Byte :=
  bytes.foldl (fun acc b => acc ^^^ b) 0x00#8

/-- Whether a byte is one of the four delimiters (30_encoding.md R47, R48). -/
def isDelimiter (b : Byte) : Bool :=
  b == 0x02#8 || b == 0x06#8 || b == 0x82#8 || b == 0x86#8

/-- Whether a frame-type operand is one of the four delimiters (41_frame_encoder.md R74). -/
def isFrameType (n : Nat) : Bool :=
  n == 0x02 || n == 0x06 || n == 0x82 || n == 0x86

/-- The number of bytes of an address width. -/
def AddressWidth.bytes : AddressWidth → Nat
  | .one => 1
  | .five => 5

/-- The address width a frame-type byte selects: 5 when bit 7 is set, else 1 (30_encoding.md R49). -/
def widthOf (frameType : Byte) : AddressWidth :=
  if frameType.getLsbD 7 then .five else .one

/-- The address width a frame-type operand selects (41_frame_encoder.md R75). -/
def widthOfOperand (frameType : Nat) : AddressWidth :=
  if frameType.testBit 7 then .five else .one

/-- The bytes the checksum covers (30_encoding.md R54): frame type, address, command, byte count, payload. -/
def bodyBytes (frameType : Byte) (address : List Byte) (command byteCount : Byte) (payload : List Byte) : List Byte :=
  [frameType] ++ address ++ [command, byteCount] ++ payload

/-- The numeric code of a parser state (10_state.md R14). -/
def ParseState.code : ParseState → Nat
  | .preamble => 0
  | .frameType => 1
  | .address => 2
  | .command => 3
  | .byteCount => 4
  | .data => 5
  | .checksum => 6

/-- The parser state of a numeric code; 7 and above are not states (10_state.md R14). -/
def parseStateOfCode : Nat → Option ParseState
  | 0 => some .preamble
  | 1 => some .frameType
  | 2 => some .address
  | 3 => some .command
  | 4 => some .byteCount
  | 5 => some .data
  | 6 => some .checksum
  | _ => none

/-- The code of a protocol violation (60_exceptions.md R98). -/
def Violation.code : Violation → Byte
  | .insufficientPreamble _ _ => 0x01#8
  | .preambleTooLong _ _ => 0x02#8
  | .invalidDelimiter _ => 0x03#8
  | .byteCountTooLarge _ _ => 0x04#8
  | .checksumMismatch _ _ => 0x05#8

/-- The state that raises a protocol violation (60_exceptions.md R98). -/
def Violation.raisedIn : Violation → ParseState
  | .insufficientPreamble _ _ => .preamble
  | .preambleTooLong _ _ => .preamble
  | .invalidDelimiter _ => .frameType
  | .byteCountTooLarge _ _ => .byteCount
  | .checksumMismatch _ _ => .checksum

/-- The offending byte of a protocol violation (60_exceptions.md R99). -/
def Violation.offendingByte : Violation → Byte
  | .insufficientPreamble b _ => b
  | .preambleTooLong b _ => b
  | .invalidDelimiter b => b
  | .byteCountTooLarge b _ => b
  | .checksumMismatch _ r => r

/-- The code of a construction error (60_exceptions.md R100). -/
def ConstructionError.code : ConstructionError → Byte
  | .preambleTooShort _ => 0x11#8
  | .invalidFrameType _ => 0x12#8
  | .addressWidthMismatch _ _ => 0x13#8
  | .fieldOutOfRange _ _ => 0x14#8
  | .payloadTooLong _ => 0x15#8

/-- The number of a `BCAST_DEVTYPE` value in its 1-bit register (10_state.md R21). -/
def bcastCode : BcastDevType → BitVec 1
  | .emit => 0#1
  | .zero => 1#1

/-- What a configuration register holds, by its width (10_state.md R21). -/
inductive RegisterValue where
  | nat (n : Nat)
  | byte (b : Byte)
  | capacity (c : Capacity)
  | bit (b : BitVec 1)
deriving DecidableEq, Repr

/-- The configuration registers by their numbers (10_state.md R21). They are read-only, and no operation names one. -/
def configRegister (c : Config) : Nat → Option RegisterValue
  | 0 => some (.nat c.minPre)
  | 1 => some (.nat c.maxPre)
  | 2 => some (.byte c.maxBc)
  | 3 => some (.capacity c.rxCap)
  | 4 => some (.bit (bcastCode c.bcast))
  | _ => none

end Sys2Proof.Machine
end

