-- ==== Sys2Proof/Machine/Operands.lean ====
section
/-! DEFINITION. Machine/Operands.lean: the operand forms: the configuration of RESET with its defaults and its legality
(10_state.md R20), the address descriptors with their range checks and wire bytes (40_checksum_address.md R65 to
R68), and the frame descriptor with its checks and packet (41_frame_encoder.md R70 to R79). -/

namespace Sys2Proof.Machine

open Sys2Proof

/-! ## Configuration -/

/-- The values a RESET operand asks for, each omitted field at its default (00_scope.md R5). `MAX_BC` is still a
natural here, because 10_state.md R20 checks it before it goes into its 8-bit register. -/
structure ConfigValues where
  minPre : Nat
  maxPre : Nat
  maxBc : Nat
  rxCap : Capacity
  bcast : BcastDevType
deriving DecidableEq, Repr

/-- An operand with its defaults filled in (70_reset_and_hazards.md R111). -/
def configValues (c : ConfigOperand) : ConfigValues :=
  { minPre := c.minPre.getD 2, maxPre := c.maxPre.getD 32, maxBc := c.maxBc.getD 255,
    rxCap := c.rxCap.getD .inf, bcast := c.bcast.getD .emit }

/-- Whether a receive buffer of capacity `cap` may hold `n` unconsumed bytes (42_stream_parser.md R90). -/
def capAdmits (cap : Capacity) (n : Nat) : Bool :=
  match cap with
  | .inf => true
  | .bytes c => decide (n ≤ c)

/-- The legality of a configuration (10_state.md R20). -/
def legalConfig (v : ConfigValues) : Bool :=
  decide (v.minPre ≤ v.maxPre) && decide (v.maxBc ≤ 255) && capAdmits v.rxCap (max 5 v.maxBc)

/-- A legal configuration as the registers hold it (10_state.md R21). -/
def configRegisters (v : ConfigValues) : Config :=
  { minPre := v.minPre, maxPre := v.maxPre, maxBc := BitVec.ofNat 8 v.maxBc, rxCap := v.rxCap, bcast := v.bcast }

/-! ## Addresses -/

/-- The width of a descriptor's address, which tells its variant: 1 for Short, 5 for Long (30_encoding.md R50, R51). -/
def descWidth : AddressDesc → AddressWidth
  | .short _ _ => .one
  | .long _ _ _ _ _ _ => .five

/-- The first address field outside its range, in the order of 40_checksum_address.md R68. -/
def addressRangeError : AddressDesc → Option ConstructionError
  | .short _ slave =>
    if slave > 63 then some (.fieldOutOfRange .slave slave) else none
  | .long _ _ mfgId deviceType identificationNumber _ =>
    if mfgId > 63 then some (.fieldOutOfRange .mfgId mfgId)
    else if deviceType > 255 then some (.fieldOutOfRange .deviceType deviceType)
    else if identificationNumber > 2 ^ 24 - 1 then some (.fieldOutOfRange .identificationNumber identificationNumber)
    else none

/-- The byte of a Short address (40_checksum_address.md R66): `primary_master` in bit 7, 0 in bit 6, the slave id in
bits 5 to 0. -/
def shortBytes (primaryMaster : Bool) (slave : Nat) : List Byte :=
  [(if primaryMaster then 0x80#8 else 0x00#8) ||| (BitVec.ofNat 6 slave).setWidth 8]

/-- The five bytes of a Long address (40_checksum_address.md R67), the identification number big-endian
(20_memory.md R34). -/
def longBytes (bd : BcastDevType) (primaryMaster slaveBurst : Bool) (mfgId deviceType identificationNumber : Nat)
    (broadcast : Bool) : List Byte :=
  let b0 : Byte := (if primaryMaster then 0x80#8 else 0x00#8) ||| (if slaveBurst then 0x40#8 else 0x00#8) |||
    (BitVec.ofNat 6 mfgId).setWidth 8
  let b1 : Byte := if broadcast && bd == .zero then 0x00#8 else BitVec.ofNat 8 deviceType
  let id : BitVec 24 := BitVec.ofNat 24 identificationNumber
  if broadcast then [b0, b1, 0x00#8, 0x00#8, 0x00#8]
  else [b0, b1, id.extractLsb' 16 8, id.extractLsb' 8 8, id.extractLsb' 0 8]

/-- The wire bytes of an address descriptor, or the first range error (40_checksum_address.md R65). -/
def addrBytes (bd : BcastDevType) (a : AddressDesc) : Except ConstructionError (List Byte) :=
  match addressRangeError a with
  | some e => .error e
  | none =>
    match a with
    | .short pm slave => .ok (shortBytes pm slave)
    | .long pm burst mfgId deviceType identificationNumber broadcast =>
      .ok (longBytes bd pm burst mfgId deviceType identificationNumber broadcast)

/-! ## Packets -/

/-- The packet: preamble, body and the checksum over the body (41_frame_encoder.md R78). -/
def assemblePacket (npre : Nat) (frameType : Byte) (address : List Byte) (command : Byte) (payload : List Byte) :
    List Byte :=
  let body := bodyBytes frameType address command (BitVec.ofNat 8 payload.length) payload
  List.replicate npre 0xFF#8 ++ body ++ [xorfold body]

/-- ENCODE's checks in the order of 41_frame_encoder.md R72, then the packet (R70). On an error no byte is
produced (R79). -/
def encodePacket (bd : BcastDevType) (f : FrameDesc) (npre : Nat) : Except ConstructionError (List Byte) :=
  if npre < 2 then .error (.preambleTooShort npre)
  else if isFrameType f.frameType = false then .error (.invalidFrameType f.frameType)
  else if widthOfOperand f.frameType ≠ descWidth f.address then
    .error (.addressWidthMismatch f.frameType (descWidth f.address))
  else
    match addrBytes bd f.address with
    | .error e => .error e
    | .ok address =>
      if f.command > 255 then .error (.fieldOutOfRange .command f.command)
      else if f.payload.length > 255 then .error (.payloadTooLong f.payload.length)
      else .ok (assemblePacket npre (BitVec.ofNat 8 f.frameType) address (BitVec.ofNat 8 f.command) f.payload)

end Sys2Proof.Machine
end

