-- ==== Sys2Proof/Machine/Ops.lean ====
section
/-! DEFINITION. Machine/Ops.lean: the named operations over the session and the host interface: the receive-buffer
primitives (20_memory.md R30 to R32), the parse-state reset (42_stream_parser.md R89), returning a result,
refusing an operation (60_exceptions.md R97), and fetching the next command. -/

namespace Sys2Proof.Machine

open Sys2Proof

/-! ## The receive buffer -/

/-- `Avail(s)`, the unconsumed bytes in arrival order (20_memory.md R30). -/
def Session.avail (s : Session) : List Byte :=
  s.buf.drop s.cur

/-- `Append(s, xs)` (20_memory.md R31). -/
def Session.append (s : Session) (xs : List Byte) : Session :=
  { s with buf := s.buf ++ xs }

/-- `Consume(s, n)` (20_memory.md R32). -/
def Session.consume (s : Session) (n : Nat) : Session :=
  { s with cur := s.cur + n }

/-- Drop the consumed prefix (42_stream_parser.md R94). -/
def Session.dropConsumed (s : Session) : Session :=
  { s with buf := s.buf.drop s.cur, cur := 0 }

/-- The parse-state reset (42_stream_parser.md R89). It does not touch the buffer, the mark or the configuration. -/
def Session.resetParse (s : Session) : Session :=
  { s with st := .preamble, pcount := 0, ftype := none, awidth := none, addr := none, cmd := none, bc := none,
           data := none }

/-- Discard bytes from the front and return to PREAMBLE (42_stream_parser.md R93): the way out of a pending
violation (60_exceptions.md R103). At most the unconsumed bytes are discarded. -/
def Session.discard (s : Session) (n : Nat) : Session :=
  (s.consume (min n s.avail.length)).resetParse

/-! ## Results and refusals -/

/-- Return a result to the host (70_reset_and_hazards.md R123, R124). -/
def State.deliver (s : State) (r : Result) : State :=
  { s with results := s.results ++ [r] }

/-- Refuse an operation (60_exceptions.md R97): no result, the session's mark set, every other field of the
session as it was. The reason goes to the host (log 1, log 4). -/
def State.refuse (s : State) (r : RefusalReason) : State :=
  { s with session := { s.session with refused := true }, refusals := s.refusals ++ [r] }

/-- Create or re-create the session with configuration `cfg` (70_reset_and_hazards.md R111): every field at its value of
10_state.md R29, but the mark, which is false at the first creation and kept afterwards (R23, log 8). -/
def State.createSession (s : State) (cfg : Config) : State :=
  { s with created := true, session := { Session.fresh cfg with refused := s.created && s.session.refused } }

/-- Take the session a scan leaves and return its outcome to the host (42_stream_parser.md R90, R91). A violation
transfers control nowhere: it is returned with the state as the scan left it (60_exceptions.md R102). -/
def State.endScan (s : State) (r : Session × ScanOutcome) : Host.Outcome State Fault Refusal :=
  match r.2 with
  | .frame p => .next ({ s with session := r.1 }.deliver (.frame p))
  | .needMore _ => .next ({ s with session := r.1 }.deliver .needMore)
  | .violation v => .next ({ s with session := r.1 }.deliver (.violation v))
  | .emptyField f => .fault (.emptyField f)

/-! ## The host's commands -/

/-- The next command the host has invoked, and the state in which it runs (log 3). -/
def State.fetch (s : State) : Option (Command × State) :=
  match s.pending with
  | [] => none
  | c :: rest => some (c, { s with pending := rest })

/-- The state with a command placed where `fetch` takes the next one from. -/
def State.place (s : State) (c : Command) : State :=
  { s with pending := c :: s.pending }

end Sys2Proof.Machine
end

