-- ==== Sys2Proof/Machine/Creation.lean ====
section
/-! DEFINITION. Machine/Creation.lean: the meaning of RESET (70_reset_and_hazards.md R111, R112). -/

namespace Sys2Proof.Machine

open Sys2Proof

/-- RESET (70_reset_and_hazards.md R111): an illegal configuration is refused; a legal one creates or re-creates the
session, discarding every buffered byte and any pending violation. -/
def execReset (c : ConfigOperand) (s : State) : Host.Outcome State Fault Refusal :=
  let v := configValues c
  if legalConfig v then .next ((s.createSession (configRegisters v)).deliver .done)
  else .next (s.refuse .illegalConfig)

end Sys2Proof.Machine
end

