-- ==== Sys2Proof/Machine/Encoder.lean ====
section
/-! DEFINITION. Machine/Encoder.lean: the meanings of the stateless side: CHECKSUM and ENCODE_ADDRESS
(40_checksum_address.md) and ENCODE (41_frame_encoder.md). They need no session and write none of it (R71, R113). -/

namespace Sys2Proof.Machine

open Sys2Proof

/-- CHECKSUM (40_checksum_address.md R63). -/
def execChecksum (bytes : List Byte) (s : State) : Host.Outcome State Fault Refusal :=
  .next (s.deliver (.byte (xorfold bytes)))

/-- What an encoder operation returns: the bytes, or the construction error and no bytes (41_frame_encoder.md R79). -/
def encoderResult (r : Except ConstructionError (List Byte)) : Result :=
  match r with
  | .ok bytes => .bytes bytes
  | .error e => .constructionError e

/-- ENCODE_ADDRESS (40_checksum_address.md R65), under the `BCAST_DEVTYPE` in force (log 7). -/
def execEncodeAddress (a : AddressDesc) (s : State) : Host.Outcome State Fault Refusal :=
  .next (s.deliver (encoderResult (addrBytes s.session.cfg.bcast a)))

/-- ENCODE (41_frame_encoder.md R70), under the `BCAST_DEVTYPE` in force (log 7). -/
def execEncode (f : FrameDesc) (npre : Nat) (s : State) : Host.Outcome State Fault Refusal :=
  .next (s.deliver (encoderResult (encodePacket s.session.cfg.bcast f npre)))

end Sys2Proof.Machine
end

