-- ==== Sys2Proof/Machine/Scan.lean ====
section
/-! DEFINITION. Machine/Scan.lean: the scan of 42_stream_parser.md R81, state by state. Each state's function either ends the
scan with an outcome or changes the state and goes on with the next state's function, as the rules' `continue`
does. A violation consumes nothing and keeps every change made before it (R81, 60_exceptions.md R102). -/

namespace Sys2Proof.Machine

open Sys2Proof

/-- The body and the frame read so far, with the received checksum byte `r` (42_stream_parser.md R88). The first empty
field, if there is one, is named. -/
def Session.frameRead (s : Session) (r : Byte) : Except SessionField ParsedFrame :=
  match s.ftype with
  | none => .error .ftype
  | some ft =>
    match s.addr with
    | none => .error .addr
    | some a =>
      match s.cmd with
      | none => .error .cmd
      | some c =>
        match s.bc with
        | none => .error .bc
        | some n =>
          match s.data with
          | none => .error .data
          | some d =>
            .ok { frameType := ft, address := a, command := c, byteCount := n, payload := d, checksum := r }

/-- The checksum computed over a frame's body (30_encoding.md R54). -/
def ParsedFrame.computed (p : ParsedFrame) : Byte :=
  xorfold (bodyBytes p.frameType p.address p.command p.byteCount p.payload)

/-- CHECKSUM (42_stream_parser.md R88). -/
def scanChecksum (s : Session) : Session × ScanOutcome :=
  match s.avail with
  | [] => (s, .needMore 1)
  | r :: _ =>
    match s.frameRead r with
    | .error f => (s, .emptyField f)
    | .ok p =>
      if r ≠ p.computed then (s, .violation (.checksumMismatch p.computed r))
      else ((s.consume 1).resetParse, .frame p)

/-- DATA (42_stream_parser.md R87): the payload is taken whole. -/
def scanData (s : Session) : Session × ScanOutcome :=
  match s.bc with
  | none => (s, .emptyField .bc)
  | some n =>
    if s.avail.length < n.toNat then (s, .needMore (n.toNat - s.avail.length))
    else scanChecksum { s.consume n.toNat with data := some (s.avail.take n.toNat), st := .checksum }

/-- BYTE_COUNT (42_stream_parser.md R86). -/
def scanByteCount (s : Session) : Session × ScanOutcome :=
  match s.avail with
  | [] => (s, .needMore 1)
  | b :: _ =>
    if b > s.cfg.maxBc then (s, .violation (.byteCountTooLarge b s.cfg.maxBc))
    else scanData { s.consume 1 with bc := some b, st := .data }

/-- COMMAND (42_stream_parser.md R85). -/
def scanCommand (s : Session) : Session × ScanOutcome :=
  match s.avail with
  | [] => (s, .needMore 1)
  | b :: _ => scanByteCount { s.consume 1 with cmd := some b, st := .byteCount }

/-- ADDRESS (42_stream_parser.md R84): the address is taken whole. -/
def scanAddress (s : Session) : Session × ScanOutcome :=
  match s.awidth with
  | none => (s, .emptyField .awidth)
  | some w =>
    if s.avail.length < w.bytes then (s, .needMore (w.bytes - s.avail.length))
    else scanCommand { s.consume w.bytes with addr := some (s.avail.take w.bytes), st := .command }

/-- FRAME_TYPE (42_stream_parser.md R83). -/
def scanFrameType (s : Session) : Session × ScanOutcome :=
  match s.avail with
  | [] => (s, .needMore 1)
  | b :: _ =>
    if isDelimiter b = false then (s, .violation (.invalidDelimiter b))
    else scanAddress { s.consume 1 with ftype := some b, awidth := some (widthOf b), st := .address }

/-- PREAMBLE (42_stream_parser.md R82), on a session whose unconsumed bytes are the list it recurses on. -/
def scanPreamble : List Byte → Session → Session × ScanOutcome
  | [], s => (s, .needMore 1)
  | b :: rest, s =>
    if b = 0xFF#8 then
      if s.pcount = s.cfg.maxPre then (s, .violation (.preambleTooLong b s.pcount))
      else scanPreamble rest { s.consume 1 with pcount := s.pcount + 1 }
    else if s.pcount < s.cfg.minPre then (s, .violation (.insufficientPreamble b s.pcount))
    else scanFrameType { s with st := .frameType }

/-- The scan from the session's current state (42_stream_parser.md R81). -/
def Session.scan (s : Session) : Session × ScanOutcome :=
  match s.st with
  | .preamble => scanPreamble s.avail s
  | .frameType => scanFrameType s
  | .address => scanAddress s
  | .command => scanCommand s
  | .byteCount => scanByteCount s
  | .data => scanData s
  | .checksum => scanChecksum s

end Sys2Proof.Machine
end

