-- ==== Sys2Proof/Machine/Parser.lean ====
section
/-! DEFINITION. Machine/Parser.lean: the meanings of the parser side: FEED, NEXT_FRAME, WANTS, ADVANCE and COMPACT
(42_stream_parser.md). On a session no RESET has created each is refused NO_SESSION (70_reset_and_hazards.md R113). -/

namespace Sys2Proof.Machine

open Sys2Proof

/-- FEED (42_stream_parser.md R90): refused when the unconsumed bytes would exceed a finite `RX_CAP`; otherwise append,
then scan. The append stays made when the scan raises a violation. -/
def execFeed (bytes : List Byte) (s : State) : Host.Outcome State Fault Refusal :=
  if s.created = false then .next (s.refuse .noSession)
  else if capAdmits s.session.cfg.rxCap (s.session.avail.length + bytes.length) = false then
    .next (s.refuse .rxOverflow)
  else s.endScan (s.session.append bytes).scan

/-- NEXT_FRAME (42_stream_parser.md R91). -/
def execNextFrame (s : State) : Host.Outcome State Fault Refusal :=
  if s.created = false then .next (s.refuse .noSession)
  else s.endScan s.session.scan

/-- WANTS (42_stream_parser.md R92): the outcome of a look-ahead on a copy of the session, which is not changed. -/
def execWants (s : State) : Host.Outcome State Fault Refusal :=
  if s.created = false then .next (s.refuse .noSession)
  else
    match s.session.scan.2 with
    | .frame _ => .next (s.deliver (.count 0))
    | .needMore k => .next (s.deliver (.count k))
    | .violation _ => .next (s.deliver (.count 1))
    | .emptyField f => .fault (.emptyField f)

/-- ADVANCE (42_stream_parser.md R93). -/
def execAdvance (n : Nat) (s : State) : Host.Outcome State Fault Refusal :=
  if s.created = false then .next (s.refuse .noSession)
  else .next ({ s with session := s.session.discard n }.deliver .done)

/-- COMPACT (42_stream_parser.md R94). -/
def execCompact (s : State) : Host.Outcome State Fault Refusal :=
  if s.created = false then .next (s.refuse .noSession)
  else .next ({ s with session := s.session.dropConsumed }.deliver .done)

end Sys2Proof.Machine
end

