-- ==== Sys2Proof/Machine/Dispatch.lean ====
section
/-! DEFINITION. Machine/Dispatch.lean: one arm per operation of 30_encoding.md R56. -/

namespace Sys2Proof.Machine

open Sys2Proof

def exec (i : Instr) (s : State) : Host.Outcome State Fault Refusal :=
  match i with
  | .reset cfg => Sys2Proof.Machine.execReset cfg s
  | .checksum bytes => Sys2Proof.Machine.execChecksum bytes s
  | .encodeAddress a => Sys2Proof.Machine.execEncodeAddress a s
  | .encode f npre => Sys2Proof.Machine.execEncode f npre s
  | .feed bytes => Sys2Proof.Machine.execFeed bytes s
  | .nextFrame => Sys2Proof.Machine.execNextFrame s
  | .wants => Sys2Proof.Machine.execWants s
  | .advance n => Sys2Proof.Machine.execAdvance n s
  | .compact => Sys2Proof.Machine.execCompact s

end Sys2Proof.Machine
end

