-- ==== Sys2Proof/Machine/Step.lean ====
section
/-! DEFINITION. Machine/Step.lean: one step of the block: the next operation the host has invoked, as one atomic step
(00_scope.md R2, 20_memory.md R38). -/

namespace Sys2Proof.Machine

open Sys2Proof

/-- One step. With nothing invoked the block does nothing: it has no activity of its own (10_state.md R12, log 3).
A command that selects no operation, or overlaps another on its session, is refused before it begins
(60_exceptions.md R97, R101). -/
def step (s : State) : Host.Outcome State Fault Refusal :=
  match s.fetch with
  | none => .next s
  | some (c, t) =>
    match accept c with
    | .error r => .next (t.refuse r)
    | .ok i => exec i t

/-- The state with the command of a bare operation code placed as the next one to run (log 3, log 5). -/
def State.withFetchWord (s : State) (_nbits w : Nat) : State :=
  s.place (commandOfWord w)

end Sys2Proof.Machine
end

