-- ==== Sys2Proof/Machine/Assembler.lean ====
section
/-! DEFINITION. Machine/Assembler.lean: the program syntax of 30_encoding.md R61, one operation a line, with the
pseudo-operations of R62. It stands beside the machine: no operation reads text. What the rule's grammar leaves
to a reader (blanks between tokens, the order of RESET's operands, the case of hex digits) is DESIGN CHOICE
(log 15). -/

namespace Sys2Proof.Machine

open Sys2Proof

/-! ## Tokens -/

/-- A piece of a line: a run of ordinary characters, or one of the marks of R61's syntax. -/
inductive Token where
  | word (chars : List Char)
  | mark (c : Char)
deriving DecidableEq, Repr

/-- The characters that stand for themselves between words. -/
def isMark (c : Char) : Bool :=
  c == '(' || c == ')' || c == '[' || c == ']' || c == ',' || c == '='

/-- The characters between tokens. -/
def isBlank (c : Char) : Bool :=
  c == ' ' || c == '\t' || c == '\r'

/-- The word gathered so far, if there is one; its characters are held last first. -/
def flushWord : List Char → List Token
  | [] => []
  | c :: cs => [.word (c :: cs).reverse]

/-- A line's tokens; `;` starts a comment. -/
def tokenize : List Char → List Char → List Token
  | [], acc => flushWord acc
  | c :: cs, acc =>
    if c = ';' then flushWord acc
    else if isBlank c then flushWord acc ++ tokenize cs []
    else if isMark c then flushWord acc ++ .mark c :: tokenize cs []
    else tokenize cs (c :: acc)

/-! ## Numbers -/

def decDigit (c : Char) : Option Nat :=
  if '0'.toNat ≤ c.toNat ∧ c.toNat ≤ '9'.toNat then some (c.toNat - '0'.toNat) else none

def hexDigit (c : Char) : Option Nat :=
  if '0'.toNat ≤ c.toNat ∧ c.toNat ≤ '9'.toNat then some (c.toNat - '0'.toNat)
  else if 'A'.toNat ≤ c.toNat ∧ c.toNat ≤ 'F'.toNat then some (c.toNat - 'A'.toNat + 10)
  else if 'a'.toNat ≤ c.toNat ∧ c.toNat ≤ 'f'.toNat then some (c.toNat - 'a'.toNat + 10)
  else none

def decDigits : List Char → Nat → Option Nat
  | [], n => some n
  | c :: cs, n =>
    match decDigit c with
    | some d => decDigits cs (10 * n + d)
    | none => none

/-- `N`, a decimal natural. -/
def readNat : List Char → Option Nat
  | [] => none
  | c :: cs => decDigits (c :: cs) 0

/-- `xx`, a byte as a pair of hex digits. -/
def readByte : List Char → Option Byte
  | [h, l] =>
    match hexDigit h, hexDigit l with
    | some a, some b => some (BitVec.ofNat 8 (16 * a + b))
    | _, _ => none
  | _ => none

/-- `0xNN`. -/
def readHex : List Char → Option Nat
  | '0' :: 'x' :: cs => (readByte cs).map BitVec.toNat
  | _ => none

/-- `0|1`. -/
def readBit : List Char → Option Bool
  | ['0'] => some false
  | ['1'] => some true
  | _ => none

/-- `N|INF`. -/
def readCapacity (cs : List Char) : Option Capacity :=
  if cs = "INF".toList then some .inf else (readNat cs).map .bytes

/-- `EMIT|ZERO`. -/
def readBcast (cs : List Char) : Option BcastDevType :=
  if cs = "EMIT".toList then some .emit else if cs = "ZERO".toList then some .zero else none

/-! ## Operands -/

/-- Bytes to the end of the line. -/
def bytesToEnd : List Token → Option (List Byte)
  | [] => some []
  | .word w :: ts =>
    match readByte w, bytesToEnd ts with
    | some b, some bs => some (b :: bs)
    | _, _ => none
  | .mark _ :: _ => none

/-- Bytes to the closing bracket, and what follows it. -/
def bytesToBracket : List Token → Option (List Byte × List Token)
  | .mark ']' :: ts => some ([], ts)
  | .word w :: ts =>
    match readByte w, bytesToBracket ts with
    | some b, some (bs, rest) => some (b :: bs, rest)
    | _, _ => none
  | _ => none

/-- `name=value`, and what follows it. -/
def keyed {α : Type} (name : String) (read : List Char → Option α) : List Token → Option (α × List Token)
  | .word k :: .mark '=' :: .word v :: ts => if k = name.toList then (read v).map (·, ts) else none
  | _ => none

/-- `[name=value]`: the value, or none where the line goes on with something else. -/
def optionalKeyed {α : Type} (name : String) (read : List Char → Option α) (ts : List Token) :
    Option α × List Token :=
  match keyed name read ts with
  | some (v, rest) => (some v, rest)
  | none => (none, ts)

/-- One mark, and what follows it. -/
def expectMark (c : Char) : List Token → Option (List Token)
  | .mark d :: ts => if d = c then some ts else none
  | _ => none

/-- `short(...)` or `long(...)`, and what follows it. -/
def readAddress : List Token → Option (AddressDesc × List Token)
  | .word k :: .mark '(' :: ts =>
    if k = "short".toList then do
      let (pm, ts) ← keyed "pm" readBit ts
      let ts ← expectMark ',' ts
      let (slave, ts) ← keyed "slave" readNat ts
      let ts ← expectMark ')' ts
      some (.short pm slave, ts)
    else if k = "long".toList then do
      let (pm, ts) ← keyed "pm" readBit ts
      let ts ← expectMark ',' ts
      let (burst, ts) ← keyed "burst" readBit ts
      let ts ← expectMark ',' ts
      let (mfg, ts) ← keyed "mfg" readNat ts
      let ts ← expectMark ',' ts
      let (dt, ts) ← keyed "dt" readNat ts
      let ts ← expectMark ',' ts
      let (id, ts) ← keyed "id" readNat ts
      let ts ← expectMark ',' ts
      let (bcast, ts) ← keyed "bcast" readBit ts
      let ts ← expectMark ')' ts
      some (.long pm burst mfg dt id bcast, ts)
    else none
  | _ => none

/-- RESET's operands; an omitted one is left to its default (00_scope.md R5). -/
def readConfig (ts : List Token) : Option ConfigOperand :=
  let (minPre, ts) := optionalKeyed "min_pre" readNat ts
  let (maxPre, ts) := optionalKeyed "max_pre" readNat ts
  let (maxBc, ts) := optionalKeyed "max_bc" readNat ts
  let (rxCap, ts) := optionalKeyed "rx_cap" readCapacity ts
  let (bcast, ts) := optionalKeyed "bcast" readBcast ts
  if ts = [] then some { minPre, maxPre, maxBc, rxCap, bcast } else none

/-- ENCODE's operands. -/
def readEncode (ts : List Token) : Option Instr := do
  let (frameType, ts) ← keyed "ft" readHex ts
  let ts ← match ts with
    | .word k :: .mark '=' :: rest => if k = "addr".toList then some rest else none
    | _ => none
  let (address, ts) ← readAddress ts
  let (command, ts) ← keyed "cmd" readNat ts
  let ts ← match ts with
    | .word k :: .mark '=' :: .mark '[' :: rest => if k = "payload".toList then some rest else none
    | _ => none
  let (payload, ts) ← bytesToBracket ts
  let (npre, ts) ← keyed "npre" readNat ts
  if ts = [] then some (.encode { frameType, address, command, payload } npre) else none

/-! ## Lines -/

/-- What a line's tokens say: no operation, one, or a pseudo-operation's expansion (30_encoding.md R61, R62). -/
def readLine : List Token → Option (List Instr)
  | [] => some []
  | .mark _ :: _ => none
  | .word m :: ts =>
    if m = "RESET".toList then (readConfig ts).map ([.reset ·])
    else if m = "CHECKSUM".toList then (bytesToEnd ts).map ([.checksum ·])
    else if m = "ENCODE_ADDRESS".toList then
      match readAddress ts with
      | some (a, []) => some [.encodeAddress a]
      | _ => none
    else if m = "ENCODE".toList then (readEncode ts).map ([·])
    else if m = "FEED".toList then (bytesToEnd ts).map ([.feed ·])
    else if m = "ADVANCE".toList then
      match ts with
      | [.word n] => (readNat n).map ([.advance ·])
      | _ => none
    else if ts ≠ [] then none
    else if m = "NEXT_FRAME".toList then some [.nextFrame]
    else if m = "WANTS".toList then some [.wants]
    else if m = "COMPACT".toList then some [.compact]
    else if m = "RESYNC".toList then some (expand .resync)
    else if m = "RESET_PARSE".toList then some (expand .resetParse)
    else none

/-- The operations of one line of a program. -/
def assembleLine (line : String) : Option (List Instr) :=
  readLine (tokenize line.toList [])

/-- The operations of a program, line by line; one line that is none of R61's makes the program none. -/
def assemble : List String → Option (List Instr)
  | [] => some []
  | line :: lines =>
    match assembleLine line, assemble lines with
    | some is, some rest => some (is ++ rest)
    | _, _ => none

end Sys2Proof.Machine
end

