-- ==== Sys2Proof/Safety.lean ====
section
/-! DEFINITION. Safety.lean: what the claims speak of: the invariant of a session (10_state.md R13, R15 to R20, R28), a run
and its observation (70_reset_and_hazards.md R124), and when two sessions differ only in what no operation can
tell apart (10_state.md R27). -/

namespace Sys2Proof.Machine

open Sys2Proof

/-- `ftype` and `awidth` hold the delimiter read and the width it selects (10_state.md R16). -/
def Session.HeaderRead (s : Session) : Prop :=
  ∃ ft, s.ftype = some ft ∧ isDelimiter ft = true ∧ s.awidth = some (widthOf ft)

/-- `addr` holds `awidth` bytes (10_state.md R17). -/
def Session.AddressRead (s : Session) : Prop :=
  ∃ w a, s.awidth = some w ∧ s.addr = some a ∧ a.length = w.bytes

/-- `cmd` holds the command byte (10_state.md R18). -/
def Session.CommandRead (s : Session) : Prop :=
  ∃ c, s.cmd = some c

/-- `bc` holds a count of at most `MAX_BC` (10_state.md R18). -/
def Session.CountRead (s : Session) : Prop :=
  ∃ n, s.bc = some n ∧ n ≤ s.cfg.maxBc

/-- `data` holds `bc` bytes (10_state.md R19). -/
def Session.DataRead (s : Session) : Prop :=
  ∃ n d, s.bc = some n ∧ s.data = some d ∧ d.length = n.toNat

/-- Which fields hold a value, and what they hold, in each state (10_state.md R28 and R16 to R19). -/
def Session.FieldsValid (s : Session) : Prop :=
  match s.st with
  | .preamble =>
    s.ftype = none ∧ s.awidth = none ∧ s.addr = none ∧ s.cmd = none ∧ s.bc = none ∧ s.data = none
  | .frameType =>
    s.ftype = none ∧ s.awidth = none ∧ s.addr = none ∧ s.cmd = none ∧ s.bc = none ∧ s.data = none
  | .address => s.HeaderRead ∧ s.addr = none ∧ s.cmd = none ∧ s.bc = none ∧ s.data = none
  | .command => s.HeaderRead ∧ s.AddressRead ∧ s.cmd = none ∧ s.bc = none ∧ s.data = none
  | .byteCount => s.HeaderRead ∧ s.AddressRead ∧ s.CommandRead ∧ s.bc = none ∧ s.data = none
  | .data => s.HeaderRead ∧ s.AddressRead ∧ s.CommandRead ∧ s.CountRead ∧ s.data = none
  | .checksum => s.HeaderRead ∧ s.AddressRead ∧ s.CommandRead ∧ s.CountRead ∧ s.DataRead

/-- The configuration registers hold a legal configuration (10_state.md R20). -/
def Session.ConfigLegal (s : Session) : Prop :=
  s.cfg.minPre ≤ s.cfg.maxPre ∧ capAdmits s.cfg.rxCap (max 5 s.cfg.maxBc.toNat) = true

/-- The invariant of a session. -/
structure Session.Inv (s : Session) : Prop where
  /-- 10_state.md R20. -/
  config : s.ConfigLegal
  /-- `0 <= pcount <= MAX_PRE` (10_state.md R13, R15). -/
  pcount : s.pcount ≤ s.cfg.maxPre
  /-- `0 <= cur <= |buf|` (10_state.md R13). -/
  cursor : s.cur ≤ s.buf.length
  /-- No more than `RX_CAP` unconsumed bytes (00_scope.md R5). -/
  capacity : capAdmits s.cfg.rxCap s.avail.length = true
  /-- 10_state.md R28. -/
  fields : s.FieldsValid
  /-- Past PREAMBLE at least `MIN_PRE` preamble bytes were counted (42_stream_parser.md R82). -/
  preambleSeen : s.st ≠ .preamble → s.cfg.minPre ≤ s.pcount
  /-- FRAME_TYPE is entered only with a non-0xFF byte unconsumed (42_stream_parser.md R83). -/
  delimiterWaits : s.st = .frameType → ∃ b rest, s.avail = b :: rest ∧ b ≠ 0xFF#8

/-- The invariant of the machine. -/
def State.Inv (s : State) : Prop :=
  s.session.Inv

/-- Run operations one after another, stopping at the first fault or refusal (70_reset_and_hazards.md R124). -/
def execAll : List Instr → State → Host.Outcome State Fault Refusal
  | [], s => .next s
  | i :: rest, s =>
    match exec i s with
    | .next t => execAll rest t
    | .fault f => .fault f
    | .refused r => .refused r

/-- What a run lets the host observe: its results in order and the final state of the session; nothing when the
session is marked refused (70_reset_and_hazards.md R124). -/
def State.observation (s : State) : Option (List Result × Session) :=
  if s.session.refused then none else some (s.results, s.session)

/-- Two sessions with the same unconsumed bytes and the same everything else but the consumed prefix
(10_state.md R27). -/
def Session.SameView (s t : Session) : Prop :=
  s.avail = t.avail ∧ { s with buf := [], cur := 0 } = { t with buf := [], cur := 0 }

/-- Two machine states alike but for their sessions' consumed prefixes. -/
def State.SameView (s t : State) : Prop :=
  s.session.SameView t.session ∧ { s with session := t.session } = t

/-- A session with a violation pending: a scan would return it at once, changing nothing
(42_stream_parser.md R96). -/
def Session.PendingViolation (s : Session) (v : Violation) : Prop :=
  s.scan = (s, .violation v)

end Sys2Proof.Machine
end

