-- ==== Sys2Proof/Certificates/Slice0/Obligations.lean ====
section
/-! DEFINITION. Obligations.lean: the statements about the codec for the provers. A result an operation returns is the entry
it adds at the end of `results` (70_reset_and_hazards.md R124, log 4). -/

open Sys2Proof Sys2Proof.Machine

/-! ## Commands -/

/-- Decoding and encoding agree (30_encoding.md R56, R57): every operation, with every operand, is read back from
its command, and a canonical command is the command of the operation it is read as. -/
def Obligations.DecodeEncodeAgree : Prop :=
  (∀ i : Instr, decode (encode i) = .ok i ∧ (encode i).WellFormed) ∧
  (∀ c : Command, c.WellFormed → ∃ i, decode c = .ok i ∧ encode i = c)

/-- The table of 30_encoding.md R56, code by code, on any operands. -/
def Obligations.OperationTableDecodes : Prop :=
  ∀ (o : Operands) (v : Bool),
    decode ⟨0x00#8, o, v⟩ = .ok (.reset o.cfg) ∧ decode ⟨0x01#8, o, v⟩ = .ok (.checksum o.bytes) ∧
    decode ⟨0x02#8, o, v⟩ = .ok (.encodeAddress o.address) ∧ decode ⟨0x03#8, o, v⟩ = .ok (.encode o.frame o.npre) ∧
    decode ⟨0x10#8, o, v⟩ = .ok (.feed o.bytes) ∧ decode ⟨0x11#8, o, v⟩ = .ok .nextFrame ∧
    decode ⟨0x12#8, o, v⟩ = .ok .wants ∧ decode ⟨0x13#8, o, v⟩ = .ok (.advance o.count) ∧
    decode ⟨0x14#8, o, v⟩ = .ok .compact

/-- A code of no operation is refused (30_encoding.md R58): the mark is set, the reason noted, no result given, and
everything else stays (60_exceptions.md R97). That this is a next state is the model's reading (log 1), and that the
reason is BAD_OPCODE for an overlapping command too is its choice (log 12). -/
def Obligations.UnassignedCodeRefused : Prop :=
  ∀ (s : State) (c : Command) (rest : List Command), s.pending = c :: rest →
    (0x04 ≤ c.op.toNat ∧ c.op.toNat ≤ 0x0F ∨ 0x15 ≤ c.op.toNat) →
    step s = .next { s with pending := rest, session := { s.session with refused := true },
                            refusals := s.refusals ++ [.badOpcode] }

/-- A step runs the operation of the oldest command (the model's queue, log 3): exactly `exec` of it, in the state
with the command taken away; and `withFetchWord` places a bare code where the step takes it. -/
def Obligations.StepRunsDecodedOperation : Prop :=
  (∀ (s : State) (c : Command) (rest : List Command) (i : Instr), s.pending = c :: rest → decode c = .ok i →
    (c.overlapping = false ∨ onSession i = false) → step s = exec i { s with pending := rest }) ∧
  (∀ (s : State) (w : Nat) (i : Instr), decodeTableWord 8 w = some i → step (s.withFetchWord 8 w) = exec i s)

/-- An operation begun on a session while another is in progress on it is refused; the encoder's three, which act
on no session, are not (70_reset_and_hazards.md R115, as the model shows it: log 1, log 6). That the reason is
CONCURRENT_INVOCATION also where NO_SESSION, ILLEGAL_CONFIG or RX_OVERFLOW applies is the model's choice (log 12). -/
def Obligations.OverlappingOperationRefused : Prop :=
  ∀ (s : State) (c : Command) (rest : List Command) (i : Instr), s.pending = c :: rest → decode c = .ok i →
    c.overlapping = true →
    match i with
    | .checksum _ | .encodeAddress _ | .encode _ _ => step s = exec i { s with pending := rest }
    | _ => step s = .next { s with pending := rest, session := { s.session with refused := true },
                                   refusals := s.refusals ++ [.concurrentInvocation] }

/-- With nothing invoked a step changes nothing (the model's choice, log 3). -/
def Obligations.IdleStepChangesNothing : Prop :=
  ∀ s : State, s.pending = [] → step s = .next s

/-- The pseudo-operations are their exact expansions (30_encoding.md R62): RESYNC runs as ADVANCE 1 and then
NEXT_FRAME, RESET_PARSE as ADVANCE 0. -/
def Obligations.PseudoOperationsExpand : Prop :=
  (∀ s t : State, exec (.advance 1) s = .next t →
    ∀ u, exec .nextFrame t = .next u → execAll (expand .resync) s = .next u) ∧
  (∀ s t : State, exec (.advance 0) s = .next t → execAll (expand .resetParse) s = .next t)

/-- One line of every form of 30_encoding.md R61 and R62, and the operations it stands for; how the blanks and the optional
operands are read is the model's choice (log 15). -/
def Obligations.AssemblerReadsProgramLines : Prop :=
  assemble ["RESET max_bc=8 rx_cap=21 bcast=ZERO ; a comment", "RESET min_pre=0 max_pre=40 rx_cap=INF", "CHECKSUM 02 80",
      "ENCODE_ADDRESS short(pm=1, slave=63)", "ENCODE_ADDRESS long(pm=0, burst=1, mfg=63, dt=255, id=16777215, bcast=0)",
      "NEXT_FRAME", "WANTS", "ADVANCE 100", "COMPACT", "RESYNC", "RESET_PARSE"] =
    some [.reset { maxBc := some 8, rxCap := some (.bytes 21), bcast := some .zero },
      .reset { minPre := some 0, maxPre := some 40, rxCap := some .inf }, .checksum [0x02#8, 0x80#8],
      .encodeAddress (.short true 63), .encodeAddress (.long false true 63 255 16777215 false),
      .nextFrame, .wants, .advance 100, .compact, .advance 1, .nextFrame, .advance 0] ∧
  assemble ["ENCODE ft=0x06 addr=short(pm=1, slave=0) cmd=1 payload=[] npre=5"] =
    some [.encode ⟨0x06, .short true 0, 1, []⟩ 5] ∧
  assemble ["ENCODE ft=0x82 addr=long(pm=1, burst=0, mfg=10, dt=100, id=1193046, bcast=1) cmd=11 payload=[41 42] npre=3",
      "", "FEED 0B FF"] =
    some [.encode ⟨0x82, .long true false 10 100 1193046 true, 11, [0x41#8, 0x42#8]⟩ 3, .feed [0x0B#8, 0xFF#8]] ∧
  assemble ["WANTS", "FEED F"] = none ∧ assemble ["WANT"] = none

/-! ## RESET and the configuration -/

/-- RESET with a legal configuration (70_reset_and_hazards.md R111, 10_state.md R29): the session is created with every
field at its value after creation, omitted operands at their defaults; the mark is false at the first creation
and kept at a re-creation. -/
def Obligations.ResetCreatesSession : Prop :=
  ∀ (c : ConfigOperand) (s : State), c.WellFormed →
    exec (.reset c) s = .next { s with
      created := true
      session :=
        { st := .preamble, pcount := 0, ftype := none, awidth := none, addr := none, cmd := none, bc := none,
          data := none, buf := [], cur := 0, refused := if s.created then s.session.refused else false,
          cfg := { minPre := c.minPre.getD 2, maxPre := c.maxPre.getD 32, maxBc := BitVec.ofNat 8 (c.maxBc.getD 255),
                   rxCap := c.rxCap.getD .inf, bcast := c.bcast.getD .emit } }
      results := s.results ++ [.done] }

/-- RESET with an illegal configuration (10_state.md R20, 60_exceptions.md R97) is refused. That this is a next state is the
model's reading (log 1). -/
def Obligations.IllegalConfigurationRefused : Prop :=
  ∀ (c : ConfigOperand) (s : State),
    (c.maxPre.getD 32 < c.minPre.getD 2 ∨ 255 < c.maxBc.getD 255 ∨
      ∃ n, c.rxCap = some (.bytes n) ∧ n < max 5 (c.maxBc.getD 255)) →
    exec (.reset c) s =
      .next { s with session := { s.session with refused := true }, refusals := s.refusals ++ [.illegalConfig] }

/-- The state after reset (10_state.md R29, 00_scope.md R5): the values after creation with the defaults. -/
def Obligations.StateAfterReset : Prop :=
  State.reset.session =
    { st := .preamble, pcount := 0, ftype := none, awidth := none, addr := none, cmd := none, bc := none, data := none,
      buf := [], cur := 0, refused := false,
      cfg := { minPre := 2, maxPre := 32, maxBc := 255#8, rxCap := .inf, bcast := .emit } } ∧
  exec (.reset {}) State.noSession = .next { State.reset with results := [.done] }

/-- The configuration takes its values only in RESET (70_reset_and_hazards.md R112): no other operation writes it. -/
def Obligations.ConfigurationFixedBetweenResets : Prop :=
  ∀ (i : Instr) (s t : State), (∀ c, i ≠ .reset c) → exec i s = .next t → t.session.cfg = s.session.cfg

/-- Before any RESET every parser operation is refused NO_SESSION (70_reset_and_hazards.md R113; a next state, log 1). That
the reason is NO_SESSION for a FEED of any length is the model's choice (log 12). -/
def Obligations.ParserNeedsSession : Prop :=
  ∀ (i : Instr) (s : State), s.created = false →
    (match i with
     | .feed _ | .nextFrame | .wants | .advance _ | .compact => True
     | _ => False) →
    exec i s = .next { s with session := { s.session with refused := true }, refusals := s.refusals ++ [.noSession] }

/-! ## CHECKSUM -/

/-- CHECKSUM returns the XOR-fold from 0x00, first byte first, and writes no state (40_checksum_address.md R63). -/
def Obligations.ChecksumFoldsBytes : Prop :=
  ∀ (bytes : List Byte) (s : State),
    exec (.checksum bytes) s =
      .next { s with results := s.results ++ [.byte (bytes.foldl (fun acc b => acc ^^^ b) 0x00#8)] }

/-- The checksum laws (40_checksum_address.md R64): XOR's own laws, concatenation, order, single-bit sensitivity, and two
errors in one bit position cancelling. -/
def Obligations.ChecksumLaws : Prop :=
  (∀ a b c : Byte, a ^^^ b ^^^ c = a ^^^ (b ^^^ c) ∧ a ^^^ b = b ^^^ a ∧ a ^^^ 0x00#8 = a ∧ a ^^^ a = 0x00#8) ∧
  (∀ xs ys : List Byte, xorfold (xs ++ ys) = xorfold xs ^^^ xorfold ys) ∧
  (∀ xs ys : List Byte, xs.Perm ys → xorfold xs = xorfold ys) ∧
  (∀ (xs : List Byte) (j k m : Nat) (h : j < xs.length), k < 8 → m < 8 →
    (xorfold (xs.set j (xs[j] ^^^ BitVec.twoPow 8 k))).getLsbD m =
      (if m = k then !(xorfold xs).getLsbD m else (xorfold xs).getLsbD m)) ∧
  (∀ (xs : List Byte) (i j k : Nat) (hi : i < xs.length) (hj : j < xs.length), k < 8 → i ≠ j →
    xorfold ((xs.set i (xs[i] ^^^ BitVec.twoPow 8 k)).set j (xs[j] ^^^ BitVec.twoPow 8 k)) = xorfold xs)

/-! ## ENCODE_ADDRESS -/

/-- ENCODE_ADDRESS of a Short descriptor in range (30_encoding.md R50, 40_checksum_address.md R66): one byte, with
`primary_master` in bit 7, 0 in bit 6 and the slave id in bits 5 to 0; no state is written. -/
def Obligations.ShortAddressEncoded : Prop :=
  ∀ (pm : Bool) (slave : Nat) (s : State), slave ≤ 63 →
    ∃ b : Byte, exec (.encodeAddress (.short pm slave)) s = .next { s with results := s.results ++ [.bytes [b]] } ∧
      b.getLsbD 7 = pm ∧ b.getLsbD 6 = false ∧ b.toNat % 64 = slave

/-- ENCODE_ADDRESS of a Long descriptor in range (30_encoding.md R51, R52, 40_checksum_address.md R67): five bytes, the
identification number big-endian, or zeros for a broadcast; no state is written. -/
def Obligations.LongAddressEncoded : Prop :=
  ∀ (pm burst : Bool) (mfg dt id : Nat) (bcast : Bool) (s : State), mfg ≤ 63 → dt ≤ 255 → id ≤ 16777215 →
    ∃ b0 b1 b2 b3 b4 : Byte,
      exec (.encodeAddress (.long pm burst mfg dt id bcast)) s =
        .next { s with results := s.results ++ [.bytes [b0, b1, b2, b3, b4]] } ∧
      b0.getLsbD 7 = pm ∧ b0.getLsbD 6 = burst ∧ b0.toNat % 64 = mfg ∧
      b1.toNat = (if bcast = true ∧ s.session.cfg.bcast = .zero then 0 else dt) ∧
      b2.toNat * 65536 + b3.toNat * 256 + b4.toNat = (if bcast then 0 else id)

/-- ENCODE_ADDRESS out of range (40_checksum_address.md R68): FIELD_OUT_OF_RANGE naming the first failing field, no bytes.
A broadcast still checks its identification number. -/
def Obligations.AddressRangeChecked : Prop :=
  (∀ (pm : Bool) (slave : Nat) (s : State), 63 < slave →
    exec (.encodeAddress (.short pm slave)) s =
      .next { s with results := s.results ++ [.constructionError (.fieldOutOfRange .slave slave)] }) ∧
  (∀ (pm burst : Bool) (mfg dt id : Nat) (bcast : Bool) (s : State),
    let raises := fun e => exec (.encodeAddress (.long pm burst mfg dt id bcast)) s =
      .next { s with results := s.results ++ [.constructionError e] }
    (63 < mfg → raises (.fieldOutOfRange .mfgId mfg)) ∧
    (mfg ≤ 63 → 255 < dt → raises (.fieldOutOfRange .deviceType dt)) ∧
    (mfg ≤ 63 → dt ≤ 255 → 16777215 < id → raises (.fieldOutOfRange .identificationNumber id)))

/-! ## ENCODE -/

/-- ENCODE of an accepted descriptor (41_frame_encoder.md R70, R78): `npre` bytes 0xFF, the body and its XOR-fold, the
address bytes being those ENCODE_ADDRESS returns; no state is written. -/
def Obligations.EncodeAssemblesPacket : Prop :=
  ∀ (f : FrameDesc) (npre : Nat) (s : State), f.WellFormed → 2 ≤ npre →
    ∃ a : List Byte,
      exec (.encodeAddress f.address) s = .next { s with results := s.results ++ [.bytes a] } ∧
      let body : List Byte := BitVec.ofNat 8 f.frameType :: a ++
        BitVec.ofNat 8 f.command :: BitVec.ofNat 8 f.payload.length :: f.payload
      exec (.encode f npre) s = .next { s with results :=
        s.results ++ [.bytes (List.replicate npre 0xFF#8 ++ body ++ [body.foldl (fun acc b => acc ^^^ b) 0x00#8])] }

/-- ENCODE's checks in their order (41_frame_encoder.md R72): the first that fails is raised, and no byte is returned
(R79). -/
def Obligations.EncodeCheckOrder : Prop :=
  ∀ (f : FrameDesc) (npre : Nat) (s : State),
    let raises := fun e => exec (.encode f npre) s = .next { s with results := s.results ++ [.constructionError e] }
    let frameTypeOk := f.frameType = 0x02 ∨ f.frameType = 0x06 ∨ f.frameType = 0x82 ∨ f.frameType = 0x86
    (npre < 2 → raises (.preambleTooShort npre)) ∧
    (2 ≤ npre → ¬ frameTypeOk → raises (.invalidFrameType f.frameType)) ∧
    (2 ≤ npre → frameTypeOk → ¬ f.WidthConsistent →
      raises (.addressWidthMismatch f.frameType (match f.address with | .short .. => .one | .long .. => .five))) ∧
    (2 ≤ npre → f.WidthConsistent → ∀ e,
      exec (.encodeAddress f.address) s = .next { s with results := s.results ++ [.constructionError e] } → raises e) ∧
    (2 ≤ npre → f.WidthConsistent → f.address.WellFormed → 255 < f.command →
      raises (.fieldOutOfRange .command f.command)) ∧
    (2 ≤ npre → f.WidthConsistent → f.address.WellFormed → f.command ≤ 255 → 255 < f.payload.length →
      raises (.payloadTooLong f.payload.length))

/-- ENCODE is atomic (41_frame_encoder.md R79): it returns bytes exactly when every check passes, and otherwise a
construction error and no bytes; and the bytes it returns are the whole packet of R78, never a part of it. -/
def Obligations.EncodeAtomic : Prop :=
  ∀ (f : FrameDesc) (npre : Nat) (s : State), ∃ r : Result,
    exec (.encode f npre) s = .next { s with results := s.results ++ [r] } ∧
    ((∃ bs, r = .bytes bs) ↔ f.WellFormed ∧ 2 ≤ npre) ∧
    ((∃ e, r = .constructionError e) ↔ ¬ (f.WellFormed ∧ 2 ≤ npre)) ∧
    (∀ bs, r = .bytes bs → ∃ a : List Byte,
      exec (.encodeAddress f.address) s = .next { s with results := s.results ++ [.bytes a] } ∧
      let body : List Byte := BitVec.ofNat 8 f.frameType :: a ++
        BitVec.ofNat 8 f.command :: BitVec.ofNat 8 f.payload.length :: f.payload
      bs = List.replicate npre 0xFF#8 ++ body ++ [body.foldl (fun acc b => acc ^^^ b) 0x00#8])

/-- The properties of a packet (41_frame_encoder.md R80): its length, its frame type, its last byte, and that the bytes
from the frame type to the end fold to 0. -/
def Obligations.PacketProperties : Prop :=
  ∀ (f : FrameDesc) (npre : Nat) (s : State) (pk : List Byte),
    exec (.encode f npre) s = .next { s with results := s.results ++ [.bytes pk] } →
    pk.length = npre + (match f.address with | .short .. => 1 | .long .. => 5) + f.payload.length + 4 ∧
    pk[npre]? = some (BitVec.ofNat 8 f.frameType) ∧
    pk.take npre = List.replicate npre 0xFF#8 ∧
    pk.getLast? = some (xorfold ((pk.drop npre).dropLast)) ∧
    xorfold (pk.drop npre) = 0x00#8

/-- The encoder is stateless (41_frame_encoder.md R71): what ENCODE, ENCODE_ADDRESS and CHECKSUM return depends on
the operands and `BCAST_DEVTYPE` alone, and they change nothing but the list of results, session or no session. -/
def Obligations.EncoderStateless : Prop :=
  ∀ i : Instr, onSession i = false → ∀ b : BcastDevType, ∃ r : Result, ∀ s : State, s.session.cfg.bcast = b →
    exec i s = .next { s with results := s.results ++ [r] }

/-! ## The scan, state by state -/

/-- PREAMBLE (42_stream_parser.md R82). -/
def Obligations.PreambleRule : Prop :=
  ∀ s : Session, s.st = .preamble →
    (s.avail = [] → s.scan = (s, .needMore 1)) ∧
    (∀ rest, s.avail = 0xFF#8 :: rest →
      (s.pcount = s.cfg.maxPre → s.scan = (s, .violation (.preambleTooLong 0xFF#8 s.pcount))) ∧
      (s.pcount ≠ s.cfg.maxPre →
        s.scan = Session.scan { s with pcount := s.pcount + 1, cur := s.cur + 1 })) ∧
    (∀ b rest, s.avail = b :: rest → b ≠ 0xFF#8 →
      (s.pcount < s.cfg.minPre → s.scan = (s, .violation (.insufficientPreamble b s.pcount))) ∧
      (s.cfg.minPre ≤ s.pcount → s.scan = Session.scan { s with st := .frameType }))

/-- FRAME_TYPE (42_stream_parser.md R83, 30_encoding.md R47 to R49). In a session that meets the invariant a byte other than
0xFF waits there, so its NeedMore is not reached. -/
def Obligations.FrameTypeRule : Prop :=
  ∀ s : Session, s.st = .frameType →
    (s.Inv → ∃ b rest, s.avail = b :: rest ∧ b ≠ 0xFF#8) ∧
    (s.avail = [] → s.scan = (s, .needMore 1)) ∧
    (∀ b rest, s.avail = b :: rest →
      (¬ (b = 0x02#8 ∨ b = 0x06#8 ∨ b = 0x82#8 ∨ b = 0x86#8) → s.scan = (s, .violation (.invalidDelimiter b))) ∧
      ((b = 0x02#8 ∨ b = 0x06#8 ∨ b = 0x82#8 ∨ b = 0x86#8) →
        s.scan = Session.scan { s with
          ftype := some b, awidth := some (if b.getLsbD 7 then .five else .one), cur := s.cur + 1, st := .address }))

/-- ADDRESS (42_stream_parser.md R84): the field is taken whole. -/
def Obligations.AddressRule : Prop :=
  ∀ (s : Session) (w : AddressWidth) (n : Nat), s.st = .address → s.awidth = some w →
    (w = .one ∧ n = 1 ∨ w = .five ∧ n = 5) →
    (s.avail.length < n → s.scan = (s, .needMore (n - s.avail.length))) ∧
    (n ≤ s.avail.length →
      s.scan = Session.scan { s with addr := some (s.avail.take n), cur := s.cur + n, st := .command })

/-- COMMAND (42_stream_parser.md R85): any byte is accepted. -/
def Obligations.CommandRule : Prop :=
  ∀ s : Session, s.st = .command →
    (s.avail = [] → s.scan = (s, .needMore 1)) ∧
    (∀ b rest, s.avail = b :: rest →
      s.scan = Session.scan { s with cmd := some b, cur := s.cur + 1, st := .byteCount })

/-- BYTE_COUNT (42_stream_parser.md R86). -/
def Obligations.ByteCountRule : Prop :=
  ∀ s : Session, s.st = .byteCount →
    (s.avail = [] → s.scan = (s, .needMore 1)) ∧
    (∀ b rest, s.avail = b :: rest →
      (s.cfg.maxBc.toNat < b.toNat → s.scan = (s, .violation (.byteCountTooLarge b s.cfg.maxBc))) ∧
      (b.toNat ≤ s.cfg.maxBc.toNat →
        s.scan = Session.scan { s with bc := some b, cur := s.cur + 1, st := .data }))

/-- DATA (42_stream_parser.md R87): the field is taken whole. -/
def Obligations.DataRule : Prop :=
  ∀ (s : Session) (n : Byte), s.st = .data → s.bc = some n →
    (s.avail.length < n.toNat → s.scan = (s, .needMore (n.toNat - s.avail.length))) ∧
    (n.toNat ≤ s.avail.length →
      s.scan = Session.scan { s with
        data := some (s.avail.take n.toNat), cur := s.cur + n.toNat, st := .checksum })

/-- CHECKSUM (42_stream_parser.md R88, R89). -/
def Obligations.ChecksumRule : Prop :=
  ∀ (s : Session) (ft c n : Byte) (a d : List Byte), s.st = .checksum → s.ftype = some ft → s.addr = some a →
    s.cmd = some c → s.bc = some n → s.data = some d →
    let computed := xorfold ([ft] ++ a ++ [c, n] ++ d)
    (s.avail = [] → s.scan = (s, .needMore 1)) ∧
    (∀ r rest, s.avail = r :: rest →
      (r ≠ computed → s.scan = (s, .violation (.checksumMismatch computed r))) ∧
      (r = computed → s.scan =
        ({ s with cur := s.cur + 1, st := .preamble, pcount := 0, ftype := none, awidth := none, addr := none,
                  cmd := none, bc := none, data := none },
         .frame { frameType := ft, address := a, command := c, byteCount := n, payload := d, checksum := r })))

/-! ## FEED and NEXT_FRAME -/

/-- FEED (42_stream_parser.md R90): the bytes are appended, the scan runs, and its outcome is returned; the append
stays made whatever the outcome, and nothing else of the machine changes. -/
def Obligations.FeedAppendsAndScans : Prop :=
  ∀ (bytes : List Byte) (s : State), s.Inv → s.created = true →
    (∀ n, s.session.cfg.rxCap = .bytes n → s.session.avail.length + bytes.length ≤ n) →
    let r := Session.scan { s.session with buf := s.session.buf ++ bytes }
    ∃ res : Result,
      exec (.feed bytes) s = .next { s with session := r.1, results := s.results ++ [res] } ∧
      (match r.2 with
       | .frame p => res = .frame p
       | .needMore _ => res = .needMore
       | .violation v => res = .violation v
       | .emptyField _ => False)

/-- FEED past a finite `RX_CAP` (42_stream_parser.md R90, 60_exceptions.md R97) is refused and appends nothing. That this is
a next state is the model's reading (log 1). -/
def Obligations.FeedOverflowRefused : Prop :=
  ∀ (bytes : List Byte) (s : State) (n : Nat), s.created = true → s.session.cfg.rxCap = .bytes n →
    n < s.session.avail.length + bytes.length →
    exec (.feed bytes) s =
      .next { s with session := { s.session with refused := true }, refusals := s.refusals ++ [.rxOverflow] }

/-- NEXT_FRAME (42_stream_parser.md R91): the scan runs on what is buffered and its outcome is returned. -/
def Obligations.NextFrameScans : Prop :=
  ∀ s : State, s.Inv → s.created = true →
    ∃ res : Result,
      exec .nextFrame s = .next { s with session := s.session.scan.1, results := s.results ++ [res] } ∧
      (match s.session.scan.2 with
       | .frame p => res = .frame p
       | .needMore _ => res = .needMore
       | .violation v => res = .violation v
       | .emptyField _ => False)

/-- FEED of no bytes is NEXT_FRAME (42_stream_parser.md R90, corner cases). -/
def Obligations.FeedNothingIsNextFrame : Prop :=
  ∀ s : State, s.Inv → exec (.feed []) s = exec .nextFrame s

/-- A frame the parser returns is whole and valid (30_encoding.md R60). -/
def Obligations.ReturnedFrameIsValid : Prop :=
  ∀ (i : Instr) (s t : State) (p : ParsedFrame), s.Inv → (i = .nextFrame ∨ ∃ bytes, i = .feed bytes) →
    exec i s = .next t → t.results = s.results ++ [.frame p] →
    (p.frameType = 0x02#8 ∨ p.frameType = 0x06#8 ∨ p.frameType = 0x82#8 ∨ p.frameType = 0x86#8) ∧
    p.address.length = (if p.frameType.getLsbD 7 then 5 else 1) ∧
    p.payload.length = p.byteCount.toNat ∧ p.byteCount.toNat ≤ s.session.cfg.maxBc.toNat ∧
    p.checksum = xorfold ([p.frameType] ++ p.address ++ [p.command, p.byteCount] ++ p.payload)

/-- A violation the parser returns (60_exceptions.md R98, R99): the session stays in the state that raises it, the
offending byte is next and unconsumed, and the information is as the table of R99 says. -/
def Obligations.ReturnedViolationInformation : Prop :=
  ∀ (i : Instr) (s t : State) (v : Violation), (i = .nextFrame ∨ ∃ bytes, i = .feed bytes) →
    exec i s = .next t → t.results = s.results ++ [.violation v] →
    match v with
    | .insufficientPreamble b n => t.session.st = .preamble ∧ (∃ rest, t.session.avail = b :: rest) ∧
        b ≠ 0xFF#8 ∧ n = t.session.pcount ∧ n < t.session.cfg.minPre
    | .preambleTooLong b n => t.session.st = .preamble ∧ (∃ rest, t.session.avail = b :: rest) ∧
        b = 0xFF#8 ∧ n = t.session.pcount ∧ n = t.session.cfg.maxPre
    | .invalidDelimiter b => t.session.st = .frameType ∧ (∃ rest, t.session.avail = b :: rest) ∧
        ¬ (b = 0x02#8 ∨ b = 0x06#8 ∨ b = 0x82#8 ∨ b = 0x86#8)
    | .byteCountTooLarge b m => t.session.st = .byteCount ∧ (∃ rest, t.session.avail = b :: rest) ∧
        m = t.session.cfg.maxBc ∧ m.toNat < b.toNat
    | .checksumMismatch c r => t.session.st = .checksum ∧ (∃ rest, t.session.avail = r :: rest) ∧ r ≠ c ∧
        ∃ ft a cm n d, t.session.ftype = some ft ∧ t.session.addr = some a ∧ t.session.cmd = some cm ∧
          t.session.bc = some n ∧ t.session.data = some d ∧ c = xorfold ([ft] ++ a ++ [cm, n] ++ d)

/-- Violations persist until resynchronization (42_stream_parser.md R96): a scan that returns one leaves it pending; then
every FEED that is not refused and every NEXT_FRAME returns it again and keeps it pending, and WANTS returns 1. -/
def Obligations.ViolationPersists : Prop :=
  (∀ (i : Instr) (s t : State) (v : Violation), (i = .nextFrame ∨ ∃ bytes, i = .feed bytes) →
    exec i s = .next t → t.results = s.results ++ [.violation v] → t.session.PendingViolation v) ∧
  (∀ (s : State) (v : Violation), s.created = true → s.session.cur ≤ s.session.buf.length →
    s.session.PendingViolation v →
    exec .nextFrame s = .next { s with results := s.results ++ [.violation v] } ∧
    exec .wants s = .next { s with results := s.results ++ [.count 1] } ∧
    ∀ bytes : List Byte, (∀ n, s.session.cfg.rxCap = .bytes n → s.session.avail.length + bytes.length ≤ n) →
      Session.PendingViolation { s.session with buf := s.session.buf ++ bytes } v ∧
      exec (.feed bytes) s =
        .next { s with session := { s.session with buf := s.session.buf ++ bytes },
                       results := s.results ++ [.violation v] })

/-! ## WANTS -/

/-- WANTS (42_stream_parser.md R92, 90_conflicts.md C2): 0 exactly when NEXT_FRAME would return a frame, 1 when it would
return a violation, otherwise the bytes the scan's current field lacks, at least 1; no state is written. The
hint is exact: while fewer bytes than it says have been fed nothing is consumed, and with that many the next
scan goes on. Under the invariant FRAME_TYPE never lacks bytes (R83). -/
def Obligations.WantsLooksAhead : Prop :=
  (∀ s : State, s.Inv → s.created = true →
    ∃ n : Nat, exec .wants s = .next { s with results := s.results ++ [.count n] } ∧
      (n = 0 ↔ ∃ t p, exec .nextFrame s = .next t ∧ t.results = s.results ++ [.frame p]) ∧
      (∀ t v, exec .nextFrame s = .next t → t.results = s.results ++ [.violation v] → n = 1) ∧
      (∀ t, exec .nextFrame s = .next t → t.results = s.results ++ [.needMore] →
        1 ≤ n ∧
        match t.session.st with
        | .preamble | .command | .byteCount | .checksum => n = 1
        | .frameType => False
        | .address => ∃ w, t.session.awidth = some w ∧
            n = (match w with | .one => 1 | .five => 5) - t.session.avail.length
        | .data => ∃ c, t.session.bc = some c ∧ n = c.toNat - t.session.avail.length)) ∧
  (∀ (s : Session) (k : Nat) (xs : List Byte), s.Inv → s.scan = (s, .needMore k) →
    let t : Session := { s with buf := s.buf ++ xs }
    (xs.length < k → t.scan = (t, .needMore (k - xs.length))) ∧
    (xs.length = k → (∃ v, t.scan.2 = .violation v) ∨ s.cur < t.scan.1.cur))

/-- Capacity (70_reset_and_hazards.md R121): after NeedMore the unconsumed bytes and what WANTS asks for fit in
`max(5, MAX_BC)`, so a FEED of exactly that many is not refused. -/
def Obligations.WantsNeverOverflows : Prop :=
  ∀ (s t : State) (xs : List Byte) (k : Nat), s.Inv → s.created = true → s.session.scan = (s.session, .needMore k) →
    xs.length = k →
    s.session.avail.length + k ≤ max 5 s.session.cfg.maxBc.toNat ∧
    (exec (.feed xs) s = .next t → t.refusals = s.refusals)

/-! ## ADVANCE and COMPACT -/

/-- ADVANCE (42_stream_parser.md R93): at most the unconsumed bytes are discarded and the parse state is reset. -/
def Obligations.AdvanceDiscardsAndResets : Prop :=
  ∀ (n : Nat) (s : State), s.created = true →
    exec (.advance n) s = .next { s with
      session := { s.session with
        cur := s.session.cur + min n s.session.avail.length, st := .preamble, pcount := 0, ftype := none,
        awidth := none, addr := none, cmd := none, bc := none, data := none }
      results := s.results ++ [.done] }

/-- ADVANCE 1 after a violation drops exactly the offending byte (60_exceptions.md R103, 42_stream_parser.md R93). -/
def Obligations.AdvanceDropsOffendingByte : Prop :=
  ∀ (s : State) (v : Violation), s.created = true → s.session.PendingViolation v →
    ∃ t, exec (.advance 1) s = .next t ∧ s.session.avail = v.offendingByte :: t.session.avail ∧
      t.session.st = .preamble ∧ t.session.pcount = 0 ∧ t.session.buf = s.session.buf

/-- COMPACT (42_stream_parser.md R94) drops the consumed prefix and keeps the unconsumed bytes, and the prefix is
unobservable (10_state.md R27, 20_memory.md R45): two machines alike but for their consumed prefixes, as a machine before and
after COMPACT is, run every sequence of operations alike, with the same results. -/
def Obligations.CompactUnobservable : Prop :=
  (∀ s : State, s.created = true →
    let t : Session := { s.session with buf := s.session.avail, cur := 0 }
    exec .compact s = .next { s with session := t, results := s.results ++ [.done] } ∧
    t.avail = s.session.avail ∧ State.SameView s { s with session := t }) ∧
  (∀ (is : List Instr) (s t : State), s.Inv → t.Inv → s.SameView t →
    ∃ s' t', execAll is s = .next s' ∧ execAll is t = .next t' ∧ s'.SameView t' ∧ s'.results = t'.results)

/-! ## Whole runs -/

/-- Chunk invariance (42_stream_parser.md R95). When the bytes are not enough, every FEED of a chunk returns NeedMore and
the session ends as it does after one FEED of all the bytes. When they give an outcome, every FEED before the
chunk that reaches the deciding byte returns NeedMore, and that FEED returns what one FEED of all the bytes
returns, leaving the same session but for the bytes not fed yet. The deciding byte, at index `j` of the buffer,
is the frame's checksum byte, the last consumed, or the violation's offending byte, the first unconsumed. -/
def Obligations.ChunkInvariance : Prop :=
  ∀ (chunks : List (List Byte)) (s t : State) (r : Result), s.Inv → s.created = true →
    (∀ n, s.session.cfg.rxCap = .bytes n → s.session.avail.length + chunks.flatten.length ≤ n) →
    chunks ≠ [] →
    exec (.feed chunks.flatten) s = .next t → t.results = s.results ++ [r] →
    (r = .needMore →
      execAll (chunks.map .feed) s =
        .next { s with session := t.session, results := s.results ++ List.replicate chunks.length .needMore }) ∧
    (r ≠ .needMore →
      ∃ (before after : List (List Byte)) (chunk : List Byte) (j : Nat),
        chunks = before ++ chunk :: after ∧
        t.session.cur = (match r with | .frame _ => j + 1 | _ => j) ∧
        (before ≠ [] → s.session.buf.length + before.flatten.length ≤ j) ∧
        j < s.session.buf.length + before.flatten.length + chunk.length ∧
        execAll (before.map .feed ++ [.feed chunk]) s = .next { s with
          session := { t.session with buf := s.session.buf ++ before.flatten ++ chunk }
          results := s.results ++ List.replicate before.length .needMore ++ [r] })

/-- The round trip (41_frame_encoder.md R80): a packet ENCODE returns, fed to a parser at the start of a frame that accepts its
preamble and payload lengths, with anything behind it, yields exactly one frame with the fields encoded, on the
packet's last byte; any shorter prefix of it yields NeedMore. -/
def Obligations.RoundTrip : Prop :=
  ∀ (f : FrameDesc) (npre : Nat) (s : State) (pk a behind : List Byte), s.Inv → s.created = true →
    exec (.encode f npre) s = .next { s with results := s.results ++ [.bytes pk] } →
    exec (.encodeAddress f.address) s = .next { s with results := s.results ++ [.bytes a] } →
    s.session.cfg.minPre ≤ npre → npre ≤ s.session.cfg.maxPre → f.payload.length ≤ s.session.cfg.maxBc.toNat →
    s.session.st = .preamble → s.session.pcount = 0 → s.session.avail = [] →
    (∀ n, s.session.cfg.rxCap = .bytes n → (pk ++ behind).length ≤ n) →
    (∃ p : ParsedFrame,
      exec (.feed (pk ++ behind)) s = .next { s with
        session := { s.session with
          buf := s.session.buf ++ (pk ++ behind), cur := s.session.buf.length + pk.length }
        results := s.results ++ [.frame p] } ∧
      p.frameType.toNat = f.frameType ∧ p.address = a ∧ p.command.toNat = f.command ∧
      p.byteCount.toNat = f.payload.length ∧ p.payload = f.payload) ∧
    (∀ xs ys : List Byte, pk = xs ++ ys → ys ≠ [] →
      ∃ t, exec (.feed xs) s = .next t ∧ t.results = s.results ++ [.needMore])

/-- A corrupted checksum byte (40_checksum_address.md R64, 42_stream_parser.md R88): a packet whose last byte alone is changed
raises CHECKSUM_MISMATCH with the computed and the received value, and gives no frame. -/
def Obligations.CorruptedChecksumRejected : Prop :=
  ∀ (f : FrameDesc) (npre : Nat) (s : State) (pk : List Byte) (c bad : Byte), s.Inv → s.created = true →
    exec (.encode f npre) s = .next { s with results := s.results ++ [.bytes (pk ++ [c])] } →
    s.session.cfg.minPre ≤ npre → npre ≤ s.session.cfg.maxPre → f.payload.length ≤ s.session.cfg.maxBc.toNat →
    s.session.st = .preamble → s.session.pcount = 0 → s.session.avail = [] →
    (∀ n, s.session.cfg.rxCap = .bytes n → pk.length + 1 ≤ n) → bad ≠ c →
    ∃ t, exec (.feed (pk ++ [bad])) s = .next t ∧ t.results = s.results ++ [.violation (.checksumMismatch c bad)]

/-- Preamble agreement (70_reset_and_hazards.md R118, 42_stream_parser.md R82): a run of `n` bytes 0xFF and then another
byte, fed to a parser at the start of a frame, is too short below `MIN_PRE`, too long above `MAX_PRE`, and
between them leads to the delimiter test. -/
def Obligations.PreambleBounds : Prop :=
  ∀ (n : Nat) (b : Byte) (rest : List Byte) (s : State), s.Inv → s.created = true → b ≠ 0xFF#8 →
    s.session.st = .preamble → s.session.pcount = 0 → s.session.avail = [] →
    (∀ m, s.session.cfg.rxCap = .bytes m → n + 1 + rest.length ≤ m) →
    ∃ t, exec (.feed (List.replicate n 0xFF#8 ++ b :: rest)) s = .next t ∧
      (n < s.session.cfg.minPre → t.results = s.results ++ [.violation (.insufficientPreamble b n)]) ∧
      (s.session.cfg.maxPre < n →
        t.results = s.results ++ [.violation (.preambleTooLong 0xFF#8 s.session.cfg.maxPre)]) ∧
      (s.session.cfg.minPre ≤ n → n ≤ s.session.cfg.maxPre →
        ¬ (b = 0x02#8 ∨ b = 0x06#8 ∨ b = 0x82#8 ∨ b = 0x86#8) →
        t.results = s.results ++ [.violation (.invalidDelimiter b)])

/-- Payload agreement (70_reset_and_hazards.md R119): a packet with more payload than the receiver's `MAX_BC` raises
BYTE_COUNT_TOO_LARGE. -/
def Obligations.LongPayloadRejected : Prop :=
  ∀ (f : FrameDesc) (npre : Nat) (s : State) (pk : List Byte), s.Inv → s.created = true →
    exec (.encode f npre) s = .next { s with results := s.results ++ [.bytes pk] } →
    s.session.cfg.minPre ≤ npre → npre ≤ s.session.cfg.maxPre → s.session.cfg.maxBc.toNat < f.payload.length →
    s.session.st = .preamble → s.session.pcount = 0 → s.session.avail = [] →
    (∀ n, s.session.cfg.rxCap = .bytes n → pk.length ≤ n) →
    ∃ t, exec (.feed pk) s = .next t ∧
      t.results = s.results ++
        [.violation (.byteCountTooLarge (BitVec.ofNat 8 f.payload.length) s.session.cfg.maxBc)]

/-! ## Invariants and whole-machine rules -/

/-- Every step keeps the invariant (10_state.md R13, R15, R20, R28), refused commands and the idle step, next states of the
model's reading and choice (log 1, log 3), among them. -/
def Obligations.StepKeepsInvariant : Prop :=
  ∀ s t : State, s.Inv → step s = .next t → t.Inv

/-- The invariant holds after reset, and before any RESET. -/
def Obligations.InvariantAtReset : Prop :=
  State.reset.Inv ∧ State.noSession.Inv

/-- No step stops a machine that meets the invariant: no field holding ⊥ is read (10_state.md R28), and every operation
ends in a next state (70_reset_and_hazards.md R125). That a refused command answers a next state is the model's reading
(log 1), and that a step with nothing invoked does is its choice (log 3). -/
def Obligations.StepNeverStops : Prop :=
  ∀ s : State, s.Inv → ∃ t, step s = .next t

/-- An operation either returns one result or is refused (60_exceptions.md R97, 70_reset_and_hazards.md R124); refused, it
gives no result and leaves every field as it was but the mark, which is set (as a next state: log 1). -/
def Obligations.OneResultOrRefusal : Prop :=
  ∀ (i : Instr) (s t : State), exec i s = .next t →
    (∃ r, t.results = s.results ++ [r] ∧ t.refusals = s.refusals ∧ t.pending = s.pending) ∨
    (∃ r, t = { s with session := { s.session with refused := true }, refusals := s.refusals ++ [r] })

/-- The mark of a created session is never cleared (10_state.md R23): not by RESET, not by any step. That a marked
session still runs is the model's reading (log 1). -/
def Obligations.RefusedMarkStays : Prop :=
  ∀ s t : State, s.created = true → s.session.refused = true → step s = .next t →
    t.created = true ∧ t.session.refused = true

/-- The mark is set by refusals alone (10_state.md R23, 60_exceptions.md R97), which are next states with a noted reason by the
model's reading and record (log 1, log 4). -/
def Obligations.MarkSetOnlyByRefusal : Prop :=
  ∀ s t : State, step s = .next t → s.session.refused = false → t.session.refused = true →
    ∃ r, t.refusals = s.refusals ++ [r] ∧ t.results = s.results

/-- The buffer and the cursor (10_state.md R22): but for RESET and COMPACT, an operation appends to the buffer what
it is fed, never moves the cursor back, and never past the buffer's end. -/
def Obligations.CursorMovesForward : Prop :=
  ∀ (i : Instr) (s t : State), s.Inv → (∀ c, i ≠ .reset c) → i ≠ .compact → exec i s = .next t →
    s.session.cur ≤ t.session.cur ∧ t.session.cur ≤ t.session.buf.length ∧
    (t.session.buf = s.session.buf ∨ ∃ bytes, i = .feed bytes ∧ t.session.buf = s.session.buf ++ bytes)

/-- The observation of a run (70_reset_and_hazards.md R124): the results in order and the final session, unless the session
is marked refused; an operation that is not refused only adds its result at the end. -/
def Obligations.ObservationOfRun : Prop :=
  (∀ s : State, s.session.refused = true → s.observation = none) ∧
  (∀ s : State, s.session.refused = false → s.observation = some (s.results, s.session)) ∧
  (∀ (is : List Instr) (s t : State), execAll is s = .next t → s.session.refused = false → s.created = true →
    t.session.refused = false → ∃ rs, t.results = s.results ++ rs ∧ rs.length = is.length)

/-- The numeric codes (10_state.md R14, R21, 60_exceptions.md R98, R100). -/
def Obligations.NumericCodes : Prop :=
  (∀ st : ParseState, parseStateOfCode st.code = some st) ∧
  (∀ n st, parseStateOfCode n = some st → st.code = n) ∧
  (∀ n, 7 ≤ n → parseStateOfCode n = none) ∧
  [ParseState.preamble, .frameType, .address, .command, .byteCount, .data, .checksum].map ParseState.code =
    [0, 1, 2, 3, 4, 5, 6] ∧
  (∀ b c r : Byte, ∀ n m : Nat, ∀ f x,
    [Violation.insufficientPreamble b n, .preambleTooLong b n, .invalidDelimiter b, .byteCountTooLarge b c,
      .checksumMismatch c r].map Violation.code = [0x01#8, 0x02#8, 0x03#8, 0x04#8, 0x05#8] ∧
    [ConstructionError.preambleTooShort n, .invalidFrameType n, .addressWidthMismatch n x, .fieldOutOfRange f m,
      .payloadTooLong n].map ConstructionError.code = [0x11#8, 0x12#8, 0x13#8, 0x14#8, 0x15#8]) ∧
  (∀ c : Config, [0, 1, 2, 3, 4, 5].map (configRegister c) =
    [some (.nat c.minPre), some (.nat c.maxPre), some (.byte c.maxBc), some (.capacity c.rxCap),
      some (.bit (match c.bcast with | .emit => 0#1 | .zero => 1#1)), none])
end

