-- ==== Sys2Proof/Laws/Operands.lean ====
section
/-! SUPPORT. Laws/Operands.lean: what the operand functions answer, said once each: the fold, the legality of a
configuration, the capacity test, the delimiter tests, the address bytes and the packet. -/

namespace Sys2Proof.Machine

open Sys2Proof

/-! ## The fold -/

@[simp] theorem xorfold_nil : xorfold [] = 0#8 := rfl

theorem foldl_xor_eq (xs : List Byte) (a : Byte) : xs.foldl (fun acc b => acc ^^^ b) a = a ^^^ xorfold xs := by
  induction xs generalizing a with
  | nil => simp
  | cons x xs ih =>
    have h : xorfold (x :: xs) = xs.foldl (fun acc b => acc ^^^ b) (0#8 ^^^ x) := rfl
    rw [List.foldl_cons, ih, h, ih]
    simp [BitVec.xor_assoc]

theorem xorfold_cons (x : Byte) (xs : List Byte) : xorfold (x :: xs) = x ^^^ xorfold xs := by
  rw [xorfold, List.foldl_cons, foldl_xor_eq]
  simp

/-- Changing one byte by `d` changes the fold by `d`. -/
theorem xorfold_set (xs : List Byte) (j : Nat) (h : j < xs.length) (d : Byte) :
    xorfold (xs.set j (xs[j] ^^^ d)) = xorfold xs ^^^ d := by
  induction xs generalizing j with
  | nil => simp at h
  | cons x xs ih =>
    cases j with
    | zero => simp [xorfold_cons, BitVec.xor_assoc, BitVec.xor_comm d]
    | succ j => simp [xorfold_cons, ih j (by simpa using h), BitVec.xor_assoc]

/-! ## Configuration and capacity -/

theorem legalConfig_iff (c : ConfigOperand) : legalConfig (configValues c) = true ↔ c.WellFormed := by
  rcases hc : c.rxCap with _ | (_ | n) <;>
    simp [legalConfig, configValues, ConfigOperand.WellFormed, hc, capAdmits, and_assoc]

theorem capAdmits_iff (c : Capacity) (n : Nat) : capAdmits c n = true ↔ ∀ m, c = .bytes m → n ≤ m := by
  cases c <;> simp [capAdmits]

/-! ## Delimiters and widths -/

theorem isDelimiter_iff (b : Byte) :
    isDelimiter b = true ↔ b = 0x02#8 ∨ b = 0x06#8 ∨ b = 0x82#8 ∨ b = 0x86#8 := by
  simp [isDelimiter, or_assoc]

theorem isFrameType_iff (n : Nat) : isFrameType n = true ↔ n = 0x02 ∨ n = 0x06 ∨ n = 0x82 ∨ n = 0x86 := by
  simp [isFrameType, or_assoc]

/-- The two checks of ENCODE on the frame type say what `FrameDesc.WidthConsistent` says. -/
theorem widthConsistent_iff (f : FrameDesc) :
    f.WidthConsistent ↔ isFrameType f.frameType = true ∧ widthOfOperand f.frameType = descWidth f.address := by
  have h : ∀ n : Nat, n = 0x02 ∨ n = 0x06 ∨ n = 0x82 ∨ n = 0x86 →
      (widthOfOperand n = .one ↔ n = 0x02 ∨ n = 0x06) ∧ (widthOfOperand n = .five ↔ n = 0x82 ∨ n = 0x86) := by
    rintro _ (rfl | rfl | rfl | rfl) <;> decide
  rw [isFrameType_iff, FrameDesc.WidthConsistent]
  cases f.address with
  | short pm slave =>
    exact ⟨fun hw => ⟨by omega, (h _ (by omega)).1.2 hw⟩, fun ⟨hf, hw⟩ => (h _ hf).1.1 hw⟩
  | long pm burst mfgId deviceType identificationNumber broadcast =>
    exact ⟨fun hw => ⟨by omega, (h _ (by omega)).2.2 hw⟩, fun ⟨hf, hw⟩ => (h _ hf).2.1 hw⟩

/-! ## Address bytes -/

/-- The wire bytes of an address, by its variant. -/
def wireBytes (bd : BcastDevType) : AddressDesc → List Byte
  | .short pm slave => shortBytes pm slave
  | .long pm burst mfgId deviceType identificationNumber broadcast =>
    longBytes bd pm burst mfgId deviceType identificationNumber broadcast

theorem wireBytes_length (bd : BcastDevType) (a : AddressDesc) : (wireBytes bd a).length = (descWidth a).bytes := by
  cases a with
  | short => rfl
  | long => simp only [wireBytes, longBytes]; split <;> rfl

theorem addressRangeError_none_iff (a : AddressDesc) : addressRangeError a = none ↔ a.WellFormed := by
  cases a with
  | short => simp [addressRangeError]
  | long => simp only [addressRangeError, AddressDesc.WellFormed]; split_ifs <;> simp <;> omega

theorem addrBytes_ok (bd : BcastDevType) {a : AddressDesc} (h : a.WellFormed) :
    addrBytes bd a = .ok (wireBytes bd a) := by
  unfold addrBytes
  rw [(addressRangeError_none_iff a).2 h]
  cases a <;> rfl

theorem addrBytes_error (bd : BcastDevType) {a : AddressDesc} (h : ¬ a.WellFormed) :
    ∃ e, addressRangeError a = some e ∧ addrBytes bd a = .error e := by
  cases he : addressRangeError a with
  | none => exact absurd ((addressRangeError_none_iff a).1 he) h
  | some e => exact ⟨e, rfl, by unfold addrBytes; rw [he]⟩

/-! ## Packets -/

theorem encodePacket_ok (bd : BcastDevType) {f : FrameDesc} {npre : Nat} (h : f.WellFormed) (hn : 2 ≤ npre) :
    encodePacket bd f npre = .ok (assemblePacket npre (BitVec.ofNat 8 f.frameType) (wireBytes bd f.address)
      (BitVec.ofNat 8 f.command) f.payload) := by
  obtain ⟨hw, ha, hc, hp⟩ := h
  obtain ⟨hf, hd⟩ := (widthConsistent_iff f).1 hw
  simp [encodePacket, Nat.not_lt.2 hn, hf, hd, addrBytes_ok bd ha, Nat.not_lt.2 hc, Nat.not_lt.2 hp]

/-- ENCODE's only packets are those of accepted descriptors. -/
theorem wellFormed_of_encodePacket {bd : BcastDevType} {f : FrameDesc} {npre : Nat} {pk : List Byte}
    (h : encodePacket bd f npre = .ok pk) : f.WellFormed ∧ 2 ≤ npre := by
  unfold encodePacket at h
  split at h; · simp at h
  split at h; · simp at h
  split at h; · simp at h
  split at h; · simp at h
  split at h; · simp at h
  split at h; · simp at h
  rename_i hn hf hw _ a ha hc hp
  refine ⟨⟨(widthConsistent_iff f).2 ⟨by simpa using hf, by simpa using hw⟩, ?_, by omega, by omega⟩, by omega⟩
  by_contra hbad
  obtain ⟨e, -, he⟩ := addrBytes_error bd hbad
  simp [he] at ha

/-- The packet with its fields in wire order. -/
theorem assemblePacket_eq (npre : Nat) (ft cmd : Byte) (a p : List Byte) :
    assemblePacket npre ft a cmd p = List.replicate npre 0xFF#8 ++ (ft :: a ++ cmd :: (BitVec.ofNat 8 p.length :: p ++
      [xorfold (bodyBytes ft a cmd (BitVec.ofNat 8 p.length) p)])) := by
  simp [assemblePacket, bodyBytes]

end Sys2Proof.Machine
end

