-- ==== Sys2Proof/Laws/State.lean ====
section
/-! SUPPORT. Laws/State.lean: one lemma per field per update of the session and of the machine, each true by
definition, so that no later proof unfolds a record update; and what each update does to the unconsumed bytes. -/

namespace Sys2Proof.Machine

open Sys2Proof

/-! ## Append -/

@[simp] theorem Session.append_st (s : Session) (xs : List Byte) : (s.append xs).st = s.st := rfl
@[simp] theorem Session.append_pcount (s : Session) (xs : List Byte) : (s.append xs).pcount = s.pcount := rfl
@[simp] theorem Session.append_ftype (s : Session) (xs : List Byte) : (s.append xs).ftype = s.ftype := rfl
@[simp] theorem Session.append_awidth (s : Session) (xs : List Byte) : (s.append xs).awidth = s.awidth := rfl
@[simp] theorem Session.append_addr (s : Session) (xs : List Byte) : (s.append xs).addr = s.addr := rfl
@[simp] theorem Session.append_cmd (s : Session) (xs : List Byte) : (s.append xs).cmd = s.cmd := rfl
@[simp] theorem Session.append_bc (s : Session) (xs : List Byte) : (s.append xs).bc = s.bc := rfl
@[simp] theorem Session.append_data (s : Session) (xs : List Byte) : (s.append xs).data = s.data := rfl
@[simp] theorem Session.append_buf (s : Session) (xs : List Byte) : (s.append xs).buf = s.buf ++ xs := rfl
@[simp] theorem Session.append_cur (s : Session) (xs : List Byte) : (s.append xs).cur = s.cur := rfl
@[simp] theorem Session.append_refused (s : Session) (xs : List Byte) : (s.append xs).refused = s.refused := rfl
@[simp] theorem Session.append_cfg (s : Session) (xs : List Byte) : (s.append xs).cfg = s.cfg := rfl

/-! ## Consume -/

@[simp] theorem Session.consume_st (s : Session) (n : Nat) : (s.consume n).st = s.st := rfl
@[simp] theorem Session.consume_pcount (s : Session) (n : Nat) : (s.consume n).pcount = s.pcount := rfl
@[simp] theorem Session.consume_ftype (s : Session) (n : Nat) : (s.consume n).ftype = s.ftype := rfl
@[simp] theorem Session.consume_awidth (s : Session) (n : Nat) : (s.consume n).awidth = s.awidth := rfl
@[simp] theorem Session.consume_addr (s : Session) (n : Nat) : (s.consume n).addr = s.addr := rfl
@[simp] theorem Session.consume_cmd (s : Session) (n : Nat) : (s.consume n).cmd = s.cmd := rfl
@[simp] theorem Session.consume_bc (s : Session) (n : Nat) : (s.consume n).bc = s.bc := rfl
@[simp] theorem Session.consume_data (s : Session) (n : Nat) : (s.consume n).data = s.data := rfl
@[simp] theorem Session.consume_buf (s : Session) (n : Nat) : (s.consume n).buf = s.buf := rfl
@[simp] theorem Session.consume_cur (s : Session) (n : Nat) : (s.consume n).cur = s.cur + n := rfl
@[simp] theorem Session.consume_refused (s : Session) (n : Nat) : (s.consume n).refused = s.refused := rfl
@[simp] theorem Session.consume_cfg (s : Session) (n : Nat) : (s.consume n).cfg = s.cfg := rfl

/-! ## Dropping the consumed prefix -/

@[simp] theorem Session.dropConsumed_st (s : Session) : (s.dropConsumed).st = s.st := rfl
@[simp] theorem Session.dropConsumed_pcount (s : Session) : (s.dropConsumed).pcount = s.pcount := rfl
@[simp] theorem Session.dropConsumed_ftype (s : Session) : (s.dropConsumed).ftype = s.ftype := rfl
@[simp] theorem Session.dropConsumed_awidth (s : Session) : (s.dropConsumed).awidth = s.awidth := rfl
@[simp] theorem Session.dropConsumed_addr (s : Session) : (s.dropConsumed).addr = s.addr := rfl
@[simp] theorem Session.dropConsumed_cmd (s : Session) : (s.dropConsumed).cmd = s.cmd := rfl
@[simp] theorem Session.dropConsumed_bc (s : Session) : (s.dropConsumed).bc = s.bc := rfl
@[simp] theorem Session.dropConsumed_data (s : Session) : (s.dropConsumed).data = s.data := rfl
@[simp] theorem Session.dropConsumed_buf (s : Session) : (s.dropConsumed).buf = s.buf.drop s.cur := rfl
@[simp] theorem Session.dropConsumed_cur (s : Session) : (s.dropConsumed).cur = 0 := rfl
@[simp] theorem Session.dropConsumed_refused (s : Session) : (s.dropConsumed).refused = s.refused := rfl
@[simp] theorem Session.dropConsumed_cfg (s : Session) : (s.dropConsumed).cfg = s.cfg := rfl

/-! ## The parse-state reset -/

@[simp] theorem Session.resetParse_st (s : Session) : (s.resetParse).st = .preamble := rfl
@[simp] theorem Session.resetParse_pcount (s : Session) : (s.resetParse).pcount = 0 := rfl
@[simp] theorem Session.resetParse_ftype (s : Session) : (s.resetParse).ftype = none := rfl
@[simp] theorem Session.resetParse_awidth (s : Session) : (s.resetParse).awidth = none := rfl
@[simp] theorem Session.resetParse_addr (s : Session) : (s.resetParse).addr = none := rfl
@[simp] theorem Session.resetParse_cmd (s : Session) : (s.resetParse).cmd = none := rfl
@[simp] theorem Session.resetParse_bc (s : Session) : (s.resetParse).bc = none := rfl
@[simp] theorem Session.resetParse_data (s : Session) : (s.resetParse).data = none := rfl
@[simp] theorem Session.resetParse_buf (s : Session) : (s.resetParse).buf = s.buf := rfl
@[simp] theorem Session.resetParse_cur (s : Session) : (s.resetParse).cur = s.cur := rfl
@[simp] theorem Session.resetParse_refused (s : Session) : (s.resetParse).refused = s.refused := rfl
@[simp] theorem Session.resetParse_cfg (s : Session) : (s.resetParse).cfg = s.cfg := rfl

/-! ## Discarding -/

@[simp] theorem Session.discard_st (s : Session) (n : Nat) : (s.discard n).st = .preamble := rfl
@[simp] theorem Session.discard_pcount (s : Session) (n : Nat) : (s.discard n).pcount = 0 := rfl
@[simp] theorem Session.discard_ftype (s : Session) (n : Nat) : (s.discard n).ftype = none := rfl
@[simp] theorem Session.discard_awidth (s : Session) (n : Nat) : (s.discard n).awidth = none := rfl
@[simp] theorem Session.discard_addr (s : Session) (n : Nat) : (s.discard n).addr = none := rfl
@[simp] theorem Session.discard_cmd (s : Session) (n : Nat) : (s.discard n).cmd = none := rfl
@[simp] theorem Session.discard_bc (s : Session) (n : Nat) : (s.discard n).bc = none := rfl
@[simp] theorem Session.discard_data (s : Session) (n : Nat) : (s.discard n).data = none := rfl
@[simp] theorem Session.discard_buf (s : Session) (n : Nat) : (s.discard n).buf = s.buf := rfl
@[simp] theorem Session.discard_cur (s : Session) (n : Nat) : (s.discard n).cur = s.cur + min n s.avail.length := rfl
@[simp] theorem Session.discard_refused (s : Session) (n : Nat) : (s.discard n).refused = s.refused := rfl
@[simp] theorem Session.discard_cfg (s : Session) (n : Nat) : (s.discard n).cfg = s.cfg := rfl

/-! ## A fresh session -/

@[simp] theorem Session.fresh_st (c : Config) : (Session.fresh c).st = .preamble := rfl
@[simp] theorem Session.fresh_pcount (c : Config) : (Session.fresh c).pcount = 0 := rfl
@[simp] theorem Session.fresh_ftype (c : Config) : (Session.fresh c).ftype = none := rfl
@[simp] theorem Session.fresh_awidth (c : Config) : (Session.fresh c).awidth = none := rfl
@[simp] theorem Session.fresh_addr (c : Config) : (Session.fresh c).addr = none := rfl
@[simp] theorem Session.fresh_cmd (c : Config) : (Session.fresh c).cmd = none := rfl
@[simp] theorem Session.fresh_bc (c : Config) : (Session.fresh c).bc = none := rfl
@[simp] theorem Session.fresh_data (c : Config) : (Session.fresh c).data = none := rfl
@[simp] theorem Session.fresh_buf (c : Config) : (Session.fresh c).buf = [] := rfl
@[simp] theorem Session.fresh_cur (c : Config) : (Session.fresh c).cur = 0 := rfl
@[simp] theorem Session.fresh_refused (c : Config) : (Session.fresh c).refused = false := rfl
@[simp] theorem Session.fresh_cfg (c : Config) : (Session.fresh c).cfg = c := rfl

/-! ## Returning a result -/

@[simp] theorem State.deliver_created (s : State) (r : Result) : (s.deliver r).created = s.created := rfl
@[simp] theorem State.deliver_session (s : State) (r : Result) : (s.deliver r).session = s.session := rfl
@[simp] theorem State.deliver_pending (s : State) (r : Result) : (s.deliver r).pending = s.pending := rfl
@[simp] theorem State.deliver_results (s : State) (r : Result) : (s.deliver r).results = s.results ++ [r] := rfl
@[simp] theorem State.deliver_refusals (s : State) (r : Result) : (s.deliver r).refusals = s.refusals := rfl

/-! ## Refusing -/

@[simp] theorem State.refuse_created (s : State) (r : RefusalReason) : (s.refuse r).created = s.created := rfl
@[simp] theorem State.refuse_session (s : State) (r : RefusalReason) : (s.refuse r).session = { s.session with refused := true } := rfl
@[simp] theorem State.refuse_pending (s : State) (r : RefusalReason) : (s.refuse r).pending = s.pending := rfl
@[simp] theorem State.refuse_results (s : State) (r : RefusalReason) : (s.refuse r).results = s.results := rfl
@[simp] theorem State.refuse_refusals (s : State) (r : RefusalReason) : (s.refuse r).refusals = s.refusals ++ [r] := rfl

/-! ## Creating a session -/

@[simp] theorem State.createSession_created (s : State) (c : Config) : (s.createSession c).created = true := rfl
@[simp] theorem State.createSession_session (s : State) (c : Config) : (s.createSession c).session = { Session.fresh c with refused := s.created && s.session.refused } := rfl
@[simp] theorem State.createSession_pending (s : State) (c : Config) : (s.createSession c).pending = s.pending := rfl
@[simp] theorem State.createSession_results (s : State) (c : Config) : (s.createSession c).results = s.results := rfl
@[simp] theorem State.createSession_refusals (s : State) (c : Config) : (s.createSession c).refusals = s.refusals := rfl

/-! ## The unconsumed bytes -/

theorem Session.avail_length (s : Session) : s.avail.length = s.buf.length - s.cur := by
  simp [Session.avail]

/-- `Avail` depends only on the buffer and the cursor (20_memory.md R30). -/
theorem Session.avail_congr {s t : Session} (hb : s.buf = t.buf) (hc : s.cur = t.cur) : s.avail = t.avail := by
  simp [Session.avail, hb, hc]

theorem Session.avail_append (s : Session) (xs : List Byte) (h : s.cur ≤ s.buf.length) :
    (s.append xs).avail = s.avail ++ xs := by
  simp [Session.avail, List.drop_append_of_le_length h]

@[simp] theorem Session.avail_consume (s : Session) (n : Nat) : (s.consume n).avail = s.avail.drop n := by
  simp [Session.avail, List.drop_drop]

@[simp] theorem Session.avail_resetParse (s : Session) : s.resetParse.avail = s.avail := rfl

@[simp] theorem Session.avail_dropConsumed (s : Session) : s.dropConsumed.avail = s.avail := by
  simp [Session.avail]

@[simp] theorem Session.avail_discard (s : Session) (n : Nat) : (s.discard n).avail = s.avail.drop n := by
  have h : (s.discard n).avail = s.avail.drop (min n s.avail.length) := by
    simp [Session.discard]
  rw [h]
  rcases Nat.le_total n s.avail.length with hn | hn
  · simp [hn]
  · simp [Nat.min_eq_right hn, List.drop_eq_nil_of_le hn]

@[simp] theorem Session.avail_fresh (c : Config) : (Session.fresh c).avail = [] := rfl

theorem Session.append_nil (s : Session) : s.append [] = s := by
  simp [Session.append]

theorem Session.append_append (s : Session) (xs ys : List Byte) :
    (s.append xs).append ys = s.append (xs ++ ys) := by
  simp [Session.append]

/-! ## The host interface -/

/-- What a refusal does, once and for all (60_exceptions.md R97). -/
theorem State.refuse_eq (s : State) (r : RefusalReason) :
    s.refuse r = { s with session := { s.session with refused := true }, refusals := s.refusals ++ [r] } := rfl

@[simp] theorem State.fetch_place (s : State) (c : Command) : (s.place c).fetch = some (c, s) := rfl

/-- Everything `endScan` can do: a result with the session the scan left, or the fault of an empty field. -/
theorem State.endScan_cases (s : State) (t : Session) (o : ScanOutcome) :
    (∃ p, o = .frame p ∧ s.endScan (t, o) = .next ({ s with session := t }.deliver (.frame p))) ∨
    (∃ k, o = .needMore k ∧ s.endScan (t, o) = .next ({ s with session := t }.deliver .needMore)) ∨
    (∃ v, o = .violation v ∧ s.endScan (t, o) = .next ({ s with session := t }.deliver (.violation v))) ∨
    (∃ f, o = .emptyField f ∧ s.endScan (t, o) = .fault (.emptyField f)) := by
  cases o <;> simp [State.endScan]

end Sys2Proof.Machine
end

