-- ==== Sys2Proof/Laws/Scan.lean ====
section
/-! SUPPORT. Laws/Scan.lean: everything the scan can do, said once: the rows of the table of 42_stream_parser.md R81 as
equations, the induction over them, and the facts later proofs cite instead of unfolding a state's function. -/

namespace Sys2Proof.Machine

open Sys2Proof

/-! ## The rows of 42_stream_parser.md R81 -/

theorem Session.scan_preamble_empty {s : Session} (h : s.st = .preamble) (ha : s.avail = []) :
    s.scan = (s, .needMore 1) := by
  simp [Session.scan, h, ha, scanPreamble]

theorem Session.scan_preamble_tooLong {s : Session} {b : Byte} {rest : List Byte} (h : s.st = .preamble)
    (ha : s.avail = b :: rest) (hb : b = 0xFF#8) (hp : s.pcount = s.cfg.maxPre) :
    s.scan = (s, .violation (.preambleTooLong b s.pcount)) := by
  simp [Session.scan, h, ha, scanPreamble, hb, hp]

theorem Session.scan_preamble_count {s : Session} {b : Byte} {rest : List Byte} (h : s.st = .preamble)
    (ha : s.avail = b :: rest) (hb : b = 0xFF#8) (hp : s.pcount ≠ s.cfg.maxPre) :
    s.scan = Session.scan { s.consume 1 with pcount := s.pcount + 1 } := by
  have hav : Session.avail { s.consume 1 with pcount := s.pcount + 1 } = rest := by
    have := s.avail_consume 1
    rw [ha] at this
    exact this
  simp only [Session.scan, h, ha, scanPreamble, hb, hp, if_true, if_false, Session.consume_st]
  exact congrArg (fun l => scanPreamble l _) hav.symm

theorem Session.scan_preamble_insufficient {s : Session} {b : Byte} {rest : List Byte} (h : s.st = .preamble)
    (ha : s.avail = b :: rest) (hb : b ≠ 0xFF#8) (hp : s.pcount < s.cfg.minPre) :
    s.scan = (s, .violation (.insufficientPreamble b s.pcount)) := by
  simp [Session.scan, h, ha, scanPreamble, hb, hp]

theorem Session.scan_preamble_end {s : Session} {b : Byte} {rest : List Byte} (h : s.st = .preamble)
    (ha : s.avail = b :: rest) (hb : b ≠ 0xFF#8) (hp : ¬ s.pcount < s.cfg.minPre) :
    s.scan = Session.scan { s with st := .frameType } := by
  simp [Session.scan, h, ha, scanPreamble, hb, hp]

theorem Session.scan_frameType_empty {s : Session} (h : s.st = .frameType) (ha : s.avail = []) :
    s.scan = (s, .needMore 1) := by
  simp [Session.scan, h, ha, scanFrameType]

theorem Session.scan_frameType_invalid {s : Session} {b : Byte} {rest : List Byte} (h : s.st = .frameType)
    (ha : s.avail = b :: rest) (hb : isDelimiter b = false) :
    s.scan = (s, .violation (.invalidDelimiter b)) := by
  simp [Session.scan, h, ha, scanFrameType, hb]

theorem Session.scan_frameType_accept {s : Session} {b : Byte} {rest : List Byte} (h : s.st = .frameType)
    (ha : s.avail = b :: rest) (hb : isDelimiter b = true) :
    s.scan = Session.scan { s.consume 1 with ftype := some b, awidth := some (widthOf b), st := .address } := by
  simp [Session.scan, h, ha, scanFrameType, hb]

theorem Session.scan_address_noWidth {s : Session} (h : s.st = .address) (hw : s.awidth = none) :
    s.scan = (s, .emptyField .awidth) := by
  simp [Session.scan, h, scanAddress, hw]

theorem Session.scan_address_short {s : Session} {w : AddressWidth} (h : s.st = .address) (hw : s.awidth = some w)
    (hl : s.avail.length < w.bytes) : s.scan = (s, .needMore (w.bytes - s.avail.length)) := by
  simp [Session.scan, h, scanAddress, hw, hl]

theorem Session.scan_address_accept {s : Session} {w : AddressWidth} (h : s.st = .address) (hw : s.awidth = some w)
    (hl : ¬ s.avail.length < w.bytes) :
    s.scan = Session.scan { s.consume w.bytes with addr := some (s.avail.take w.bytes), st := .command } := by
  simp [Session.scan, h, scanAddress, hw, hl]

theorem Session.scan_command_empty {s : Session} (h : s.st = .command) (ha : s.avail = []) :
    s.scan = (s, .needMore 1) := by
  simp [Session.scan, h, ha, scanCommand]

theorem Session.scan_command_accept {s : Session} {b : Byte} {rest : List Byte} (h : s.st = .command)
    (ha : s.avail = b :: rest) :
    s.scan = Session.scan { s.consume 1 with cmd := some b, st := .byteCount } := by
  simp [Session.scan, h, ha, scanCommand]

theorem Session.scan_byteCount_empty {s : Session} (h : s.st = .byteCount) (ha : s.avail = []) :
    s.scan = (s, .needMore 1) := by
  simp [Session.scan, h, ha, scanByteCount]

theorem Session.scan_byteCount_tooLarge {s : Session} {b : Byte} {rest : List Byte} (h : s.st = .byteCount)
    (ha : s.avail = b :: rest) (hb : b > s.cfg.maxBc) :
    s.scan = (s, .violation (.byteCountTooLarge b s.cfg.maxBc)) := by
  simp [Session.scan, h, ha, scanByteCount, hb]

theorem Session.scan_byteCount_accept {s : Session} {b : Byte} {rest : List Byte} (h : s.st = .byteCount)
    (ha : s.avail = b :: rest) (hb : ¬ b > s.cfg.maxBc) :
    s.scan = Session.scan { s.consume 1 with bc := some b, st := .data } := by
  simp only [Session.scan, h, ha, scanByteCount, hb, if_false]

theorem Session.scan_data_noCount {s : Session} (h : s.st = .data) (hn : s.bc = none) :
    s.scan = (s, .emptyField .bc) := by
  simp [Session.scan, h, scanData, hn]

theorem Session.scan_data_short {s : Session} {n : Byte} (h : s.st = .data) (hn : s.bc = some n)
    (hl : s.avail.length < n.toNat) : s.scan = (s, .needMore (n.toNat - s.avail.length)) := by
  simp [Session.scan, h, scanData, hn, hl]

theorem Session.scan_data_accept {s : Session} {n : Byte} (h : s.st = .data) (hn : s.bc = some n)
    (hl : ¬ s.avail.length < n.toNat) :
    s.scan = Session.scan { s.consume n.toNat with data := some (s.avail.take n.toNat), st := .checksum } := by
  simp only [Session.scan, h, scanData, hn, hl, if_false]

theorem Session.scan_checksum_empty {s : Session} (h : s.st = .checksum) (ha : s.avail = []) :
    s.scan = (s, .needMore 1) := by
  simp [Session.scan, h, ha, scanChecksum]

theorem Session.scan_checksum_noField {s : Session} {b : Byte} {rest : List Byte} {f : SessionField}
    (h : s.st = .checksum) (ha : s.avail = b :: rest) (hp : s.frameRead b = .error f) :
    s.scan = (s, .emptyField f) := by
  simp [Session.scan, h, ha, scanChecksum, hp]

theorem Session.scan_checksum_mismatch {s : Session} {b : Byte} {rest : List Byte} {p : ParsedFrame}
    (h : s.st = .checksum) (ha : s.avail = b :: rest) (hp : s.frameRead b = .ok p) (hb : b ≠ p.computed) :
    s.scan = (s, .violation (.checksumMismatch p.computed b)) := by
  simp [Session.scan, h, ha, scanChecksum, hp, hb]

theorem Session.scan_checksum_match {s : Session} {b : Byte} {rest : List Byte} {p : ParsedFrame}
    (h : s.st = .checksum) (ha : s.avail = b :: rest) (hp : s.frameRead b = .ok p) (hb : b = p.computed) :
    s.scan = ((s.consume 1).resetParse, .frame p) := by
  have : ¬ (b ≠ p.computed) := not_not_intro hb
  simp only [Session.scan, h, ha, scanChecksum, hp, this, if_false]

/-! ## Induction over the rows -/

/-- To prove something of every scan, prove it of each row of the table: of an ending row outright, of a
continuing row from the same thing of the session it goes on with. -/
theorem Session.scan_induct {P : Session → Session × ScanOutcome → Prop}
    (preambleEmpty : ∀ s : Session, s.st = .preamble → s.avail = [] → P s (s, .needMore 1))
    (preambleTooLong : ∀ (s : Session) (b : Byte) (rest : List Byte), s.st = .preamble → s.avail = b :: rest →
      b = 0xFF#8 → s.pcount = s.cfg.maxPre → P s (s, .violation (.preambleTooLong b s.pcount)))
    (preambleCount : ∀ (s : Session) (b : Byte) (rest : List Byte) (r : Session × ScanOutcome), s.st = .preamble →
      s.avail = b :: rest → b = 0xFF#8 → s.pcount ≠ s.cfg.maxPre →
      P { s.consume 1 with pcount := s.pcount + 1 } r → P s r)
    (preambleInsufficient : ∀ (s : Session) (b : Byte) (rest : List Byte), s.st = .preamble → s.avail = b :: rest →
      b ≠ 0xFF#8 → s.pcount < s.cfg.minPre → P s (s, .violation (.insufficientPreamble b s.pcount)))
    (preambleEnd : ∀ (s : Session) (b : Byte) (rest : List Byte) (r : Session × ScanOutcome), s.st = .preamble →
      s.avail = b :: rest → b ≠ 0xFF#8 → ¬ s.pcount < s.cfg.minPre → P { s with st := .frameType } r → P s r)
    (frameTypeEmpty : ∀ s : Session, s.st = .frameType → s.avail = [] → P s (s, .needMore 1))
    (frameTypeInvalid : ∀ (s : Session) (b : Byte) (rest : List Byte), s.st = .frameType → s.avail = b :: rest →
      isDelimiter b = false → P s (s, .violation (.invalidDelimiter b)))
    (frameTypeAccept : ∀ (s : Session) (b : Byte) (rest : List Byte) (r : Session × ScanOutcome), s.st = .frameType →
      s.avail = b :: rest → isDelimiter b = true →
      P { s.consume 1 with ftype := some b, awidth := some (widthOf b), st := .address } r → P s r)
    (addressNoWidth : ∀ s : Session, s.st = .address → s.awidth = none → P s (s, .emptyField .awidth))
    (addressShort : ∀ (s : Session) (w : AddressWidth), s.st = .address → s.awidth = some w →
      s.avail.length < w.bytes → P s (s, .needMore (w.bytes - s.avail.length)))
    (addressAccept : ∀ (s : Session) (w : AddressWidth) (r : Session × ScanOutcome), s.st = .address →
      s.awidth = some w → ¬ s.avail.length < w.bytes →
      P { s.consume w.bytes with addr := some (s.avail.take w.bytes), st := .command } r → P s r)
    (commandEmpty : ∀ s : Session, s.st = .command → s.avail = [] → P s (s, .needMore 1))
    (commandAccept : ∀ (s : Session) (b : Byte) (rest : List Byte) (r : Session × ScanOutcome), s.st = .command →
      s.avail = b :: rest → P { s.consume 1 with cmd := some b, st := .byteCount } r → P s r)
    (byteCountEmpty : ∀ s : Session, s.st = .byteCount → s.avail = [] → P s (s, .needMore 1))
    (byteCountTooLarge : ∀ (s : Session) (b : Byte) (rest : List Byte), s.st = .byteCount → s.avail = b :: rest →
      b > s.cfg.maxBc → P s (s, .violation (.byteCountTooLarge b s.cfg.maxBc)))
    (byteCountAccept : ∀ (s : Session) (b : Byte) (rest : List Byte) (r : Session × ScanOutcome), s.st = .byteCount →
      s.avail = b :: rest → ¬ b > s.cfg.maxBc → P { s.consume 1 with bc := some b, st := .data } r → P s r)
    (dataNoCount : ∀ s : Session, s.st = .data → s.bc = none → P s (s, .emptyField .bc))
    (dataShort : ∀ (s : Session) (n : Byte), s.st = .data → s.bc = some n → s.avail.length < n.toNat →
      P s (s, .needMore (n.toNat - s.avail.length)))
    (dataAccept : ∀ (s : Session) (n : Byte) (r : Session × ScanOutcome), s.st = .data → s.bc = some n →
      ¬ s.avail.length < n.toNat →
      P { s.consume n.toNat with data := some (s.avail.take n.toNat), st := .checksum } r → P s r)
    (checksumEmpty : ∀ s : Session, s.st = .checksum → s.avail = [] → P s (s, .needMore 1))
    (checksumNoField : ∀ (s : Session) (b : Byte) (rest : List Byte) (f : SessionField), s.st = .checksum →
      s.avail = b :: rest → s.frameRead b = .error f → P s (s, .emptyField f))
    (checksumMismatch : ∀ (s : Session) (b : Byte) (rest : List Byte) (p : ParsedFrame), s.st = .checksum →
      s.avail = b :: rest → s.frameRead b = .ok p → b ≠ p.computed →
      P s (s, .violation (.checksumMismatch p.computed b)))
    (checksumMatch : ∀ (s : Session) (b : Byte) (rest : List Byte) (p : ParsedFrame), s.st = .checksum →
      s.avail = b :: rest → s.frameRead b = .ok p → b = p.computed →
      P s ((s.consume 1).resetParse, .frame p))
    (s : Session) : P s s.scan := by
  have atChecksum : ∀ s : Session, s.st = .checksum → P s s.scan := by
    intro s h
    cases ha : s.avail with
    | nil => rw [Session.scan_checksum_empty h ha]; exact checksumEmpty s h ha
    | cons b rest =>
      cases hp : s.frameRead b with
      | error f => rw [Session.scan_checksum_noField h ha hp]; exact checksumNoField s b rest f h ha hp
      | ok p =>
        by_cases hb : b = p.computed
        · rw [Session.scan_checksum_match h ha hp hb]; exact checksumMatch s b rest p h ha hp hb
        · rw [Session.scan_checksum_mismatch h ha hp hb]; exact checksumMismatch s b rest p h ha hp hb
  have atData : ∀ s : Session, s.st = .data → P s s.scan := by
    intro s h
    cases hn : s.bc with
    | none => rw [Session.scan_data_noCount h hn]; exact dataNoCount s h hn
    | some n =>
      by_cases hl : s.avail.length < n.toNat
      · rw [Session.scan_data_short h hn hl]; exact dataShort s n h hn hl
      · rw [Session.scan_data_accept h hn hl]; exact dataAccept s n _ h hn hl (atChecksum _ rfl)
  have atByteCount : ∀ s : Session, s.st = .byteCount → P s s.scan := by
    intro s h
    cases ha : s.avail with
    | nil => rw [Session.scan_byteCount_empty h ha]; exact byteCountEmpty s h ha
    | cons b rest =>
      by_cases hb : b > s.cfg.maxBc
      · rw [Session.scan_byteCount_tooLarge h ha hb]; exact byteCountTooLarge s b rest h ha hb
      · rw [Session.scan_byteCount_accept h ha hb]; exact byteCountAccept s b rest _ h ha hb (atData _ rfl)
  have atCommand : ∀ s : Session, s.st = .command → P s s.scan := by
    intro s h
    cases ha : s.avail with
    | nil => rw [Session.scan_command_empty h ha]; exact commandEmpty s h ha
    | cons b rest => rw [Session.scan_command_accept h ha]; exact commandAccept s b rest _ h ha (atByteCount _ rfl)
  have atAddress : ∀ s : Session, s.st = .address → P s s.scan := by
    intro s h
    cases hw : s.awidth with
    | none => rw [Session.scan_address_noWidth h hw]; exact addressNoWidth s h hw
    | some w =>
      by_cases hl : s.avail.length < w.bytes
      · rw [Session.scan_address_short h hw hl]; exact addressShort s w h hw hl
      · rw [Session.scan_address_accept h hw hl]; exact addressAccept s w _ h hw hl (atCommand _ rfl)
  have atFrameType : ∀ s : Session, s.st = .frameType → P s s.scan := by
    intro s h
    cases ha : s.avail with
    | nil => rw [Session.scan_frameType_empty h ha]; exact frameTypeEmpty s h ha
    | cons b rest =>
      cases hb : isDelimiter b with
      | false => rw [Session.scan_frameType_invalid h ha hb]; exact frameTypeInvalid s b rest h ha hb
      | true => rw [Session.scan_frameType_accept h ha hb]; exact frameTypeAccept s b rest _ h ha hb (atAddress _ rfl)
  have atPreamble : ∀ (l : List Byte) (s : Session), s.st = .preamble → s.avail = l → P s s.scan := by
    intro l
    induction l with
    | nil => intro s h ha; rw [Session.scan_preamble_empty h ha]; exact preambleEmpty s h ha
    | cons b rest ih =>
      intro s h ha
      by_cases hb : b = 0xFF#8
      · by_cases hp : s.pcount = s.cfg.maxPre
        · rw [Session.scan_preamble_tooLong h ha hb hp]; exact preambleTooLong s b rest h ha hb hp
        · rw [Session.scan_preamble_count h ha hb hp]
          refine preambleCount s b rest _ h ha hb hp (ih _ h ?_)
          have := s.avail_consume 1
          rw [ha] at this
          exact this
      · by_cases hp : s.pcount < s.cfg.minPre
        · rw [Session.scan_preamble_insufficient h ha hb hp]; exact preambleInsufficient s b rest h ha hb hp
        · rw [Session.scan_preamble_end h ha hb hp]; exact preambleEnd s b rest _ h ha hb hp (atFrameType _ rfl)
  cases h : s.st with
  | preamble => exact atPreamble _ s h rfl
  | frameType => exact atFrameType s h
  | address => exact atAddress s h
  | command => exact atCommand s h
  | byteCount => exact atByteCount s h
  | data => exact atData s h
  | checksum => exact atChecksum s h

end Sys2Proof.Machine
end

