-- ==== Sys2Proof/Laws/Session.lean ====
section
/-! SUPPORT. Laws/Session.lean: the facts about a whole scan that later proofs cite: what it never touches, where it leaves the
cursor, that it keeps the invariant and never reads an empty field, what more bytes behind the buffered ones
change, and that scanning again what ended a scan ends it again. -/

namespace Sys2Proof.Machine

open Sys2Proof

/-! ## What a scan never touches -/

/-- The scan writes neither the buffer, nor the mark, nor the configuration, and never moves the cursor back
(10_state.md R22, R23, 70_reset_and_hazards.md R112). -/
theorem Session.scan_keeps (s : Session) :
    s.scan.1.cfg = s.cfg ∧ s.scan.1.buf = s.buf ∧ s.scan.1.refused = s.refused ∧ s.cur ≤ s.scan.1.cur := by
  apply Session.scan_induct (s := s) (P := fun s r => r.1.cfg = s.cfg ∧ r.1.buf = s.buf ∧ r.1.refused = s.refused ∧ s.cur ≤ r.1.cur)
  all_goals simp_all
  all_goals omega

theorem Session.scan_cfg (s : Session) : s.scan.1.cfg = s.cfg := s.scan_keeps.1

theorem Session.scan_buf (s : Session) : s.scan.1.buf = s.buf := s.scan_keeps.2.1

theorem Session.scan_refused (s : Session) : s.scan.1.refused = s.refused := s.scan_keeps.2.2.1

theorem Session.scan_cur_le (s : Session) : s.cur ≤ s.scan.1.cur := s.scan_keeps.2.2.2

theorem Session.cur_lt_of_avail_cons {s : Session} {b : Byte} {rest : List Byte} (h : s.avail = b :: rest) :
    s.cur + 1 ≤ s.buf.length := by
  have := s.avail_length
  rw [h] at this
  simp at this
  omega

/-- The scan consumes only bytes of the buffer (20_memory.md R30, R32). -/
theorem Session.scan_cursor (s : Session) (h : s.cur ≤ s.buf.length) : s.scan.1.cur ≤ s.buf.length := by
  revert h
  apply Session.scan_induct (s := s) (P := fun s r => s.cur ≤ s.buf.length → r.1.cur ≤ s.buf.length)
  case preambleCount =>
    intro s b rest r h ha hb hp ih
    exact fun _ => ih (Session.cur_lt_of_avail_cons ha)
  case frameTypeAccept =>
    intro s b rest r h ha hb ih
    exact fun _ => ih (Session.cur_lt_of_avail_cons ha)
  case addressAccept =>
    intro s w r h hw hl ih
    exact fun hc => ih (by have := s.avail_length; simp at *; omega)
  case commandAccept =>
    intro s b rest r h ha ih
    exact fun _ => ih (Session.cur_lt_of_avail_cons ha)
  case byteCountAccept =>
    intro s b rest r h ha hb ih
    exact fun _ => ih (Session.cur_lt_of_avail_cons ha)
  case dataAccept =>
    intro s n r h hn hl ih
    exact fun hc => ih (by have := s.avail_length; simp at *; omega)
  case checksumMatch =>
    intro s b rest p h ha hp hb
    exact fun _ => Session.cur_lt_of_avail_cons ha
  all_goals simp_all

/-! ## Ending twice -/

/-- Scanning again what a scan without a frame left ends at once, in the same way: the reason a violation stays
pending (42_stream_parser.md R96) and NEXT_FRAME after NeedMore answers NeedMore (R91). -/
theorem Session.scan_settled (s : Session) (h : ∀ p, s.scan.2 ≠ .frame p) : s.scan.1.scan = s.scan := by
  revert h
  apply Session.scan_induct (s := s) (P := fun _ r => (∀ p, r.2 ≠ .frame p) → r.1.scan = r)
  case preambleEmpty =>
    intro s h ha
    exact fun _ => Session.scan_preamble_empty h ha
  case preambleTooLong =>
    intro s b rest h ha hb hp
    exact fun _ => Session.scan_preamble_tooLong h ha hb hp
  case preambleInsufficient =>
    intro s b rest h ha hb hp
    exact fun _ => Session.scan_preamble_insufficient h ha hb hp
  case frameTypeEmpty =>
    intro s h ha
    exact fun _ => Session.scan_frameType_empty h ha
  case frameTypeInvalid =>
    intro s b rest h ha hb
    exact fun _ => Session.scan_frameType_invalid h ha hb
  case addressNoWidth =>
    intro s h hw
    exact fun _ => Session.scan_address_noWidth h hw
  case addressShort =>
    intro s w h hw hl
    exact fun _ => Session.scan_address_short h hw hl
  case commandEmpty =>
    intro s h ha
    exact fun _ => Session.scan_command_empty h ha
  case byteCountEmpty =>
    intro s h ha
    exact fun _ => Session.scan_byteCount_empty h ha
  case byteCountTooLarge =>
    intro s b rest h ha hb
    exact fun _ => Session.scan_byteCount_tooLarge h ha hb
  case dataNoCount =>
    intro s h hn
    exact fun _ => Session.scan_data_noCount h hn
  case dataShort =>
    intro s n h hn hl
    exact fun _ => Session.scan_data_short h hn hl
  case checksumEmpty =>
    intro s h ha
    exact fun _ => Session.scan_checksum_empty h ha
  case checksumNoField =>
    intro s b rest f h ha hp
    exact fun _ => Session.scan_checksum_noField h ha hp
  case checksumMismatch =>
    intro s b rest p h ha hp hb
    exact fun _ => Session.scan_checksum_mismatch h ha hp hb
  all_goals simp_all

/-! ## More bytes behind the buffered ones -/

/-- Bytes appended before a scan: a scan that needs no more does the same and leaves them unread; a scan that ran
out of bytes goes on from where it stopped (42_stream_parser.md R95). -/
theorem Session.scan_append (s : Session) (xs : List Byte) (hc : s.cur ≤ s.buf.length) :
    match s.scan.2 with
    | .needMore _ => (s.append xs).scan = (s.scan.1.append xs).scan
    | _ => (s.append xs).scan = (s.scan.1.append xs, s.scan.2) := by
  revert hc
  apply Session.scan_induct (s := s) (P := fun s r => s.cur ≤ s.buf.length →
      match r.2 with
      | .needMore _ => (s.append xs).scan = (r.1.append xs).scan
      | _ => (s.append xs).scan = (r.1.append xs, r.2))
  case preambleTooLong =>
    intro s b rest h ha hb hp
    exact fun hc => Session.scan_preamble_tooLong (s := s.append xs) h (by rw [s.avail_append xs hc, ha]; rfl) hb hp
  case preambleInsufficient =>
    intro s b rest h ha hb hp
    exact fun hc => Session.scan_preamble_insufficient (s := s.append xs) h (by rw [s.avail_append xs hc, ha]; rfl) hb hp
  case preambleCount =>
    intro s b rest r h ha hb hp ih hc
    rw [Session.scan_preamble_count (s := s.append xs) h (by rw [s.avail_append xs hc, ha]; rfl) hb hp]
    exact ih (Session.cur_lt_of_avail_cons ha)
  case preambleEnd =>
    intro s b rest r h ha hb hp ih hc
    rw [Session.scan_preamble_end (s := s.append xs) h (by rw [s.avail_append xs hc, ha]; rfl) hb hp]
    exact ih hc
  case frameTypeInvalid =>
    intro s b rest h ha hb
    exact fun hc => Session.scan_frameType_invalid (s := s.append xs) h (by rw [s.avail_append xs hc, ha]; rfl) hb
  case frameTypeAccept =>
    intro s b rest r h ha hb ih hc
    rw [Session.scan_frameType_accept (s := s.append xs) h (by rw [s.avail_append xs hc, ha]; rfl) hb]
    exact ih (Session.cur_lt_of_avail_cons ha)
  case addressNoWidth =>
    intro s h hw
    exact fun hc => Session.scan_address_noWidth (s := s.append xs) h hw
  case addressAccept =>
    intro s w r h hw hl ih hc
    have hav := s.avail_append xs hc
    have hl' : w.bytes ≤ s.avail.length := Nat.le_of_not_lt hl
    rw [Session.scan_address_accept (s := s.append xs) h hw (by rw [hav]; simp; omega), hav,
      List.take_append_of_le_length hl']
    exact ih (by have := s.avail_length; simp at *; omega)
  case commandAccept =>
    intro s b rest r h ha ih hc
    rw [Session.scan_command_accept (s := s.append xs) h (by rw [s.avail_append xs hc, ha]; rfl)]
    exact ih (Session.cur_lt_of_avail_cons ha)
  case byteCountTooLarge =>
    intro s b rest h ha hb
    exact fun hc => Session.scan_byteCount_tooLarge (s := s.append xs) h (by rw [s.avail_append xs hc, ha]; rfl) hb
  case byteCountAccept =>
    intro s b rest r h ha hb ih hc
    rw [Session.scan_byteCount_accept (s := s.append xs) h (by rw [s.avail_append xs hc, ha]; rfl) hb]
    exact ih (Session.cur_lt_of_avail_cons ha)
  case dataNoCount =>
    intro s h hn
    exact fun hc => Session.scan_data_noCount (s := s.append xs) h hn
  case dataAccept =>
    intro s n r h hn hl ih hc
    have hav := s.avail_append xs hc
    have hl' : n.toNat ≤ s.avail.length := Nat.le_of_not_lt hl
    rw [Session.scan_data_accept (s := s.append xs) h hn (by rw [hav]; simp; omega), hav,
      List.take_append_of_le_length hl']
    exact ih (by have := s.avail_length; simp at *; omega)
  case checksumNoField =>
    intro s b rest f h ha hp
    exact fun hc => Session.scan_checksum_noField (s := s.append xs) h (by rw [s.avail_append xs hc, ha]; rfl) hp
  case checksumMismatch =>
    intro s b rest p h ha hp hb
    exact fun hc => Session.scan_checksum_mismatch (s := s.append xs) h (by rw [s.avail_append xs hc, ha]; rfl) hp hb
  case checksumMatch =>
    intro s b rest p h ha hp hb
    exact fun hc => Session.scan_checksum_match (s := s.append xs) h (by rw [s.avail_append xs hc, ha]; rfl) hp hb
  all_goals intros; rfl

/-! ## More bytes in front of the cursor -/

/-- The session with bytes `front` more in its consumed prefix. -/
def Session.underlay (s : Session) (front : List Byte) : Session :=
  { s with buf := front ++ s.buf, cur := front.length + s.cur }

theorem Session.avail_underlay (s : Session) (front : List Byte) : (s.underlay front).avail = s.avail := by
  simp [Session.avail, Session.underlay, List.drop_append]

theorem Session.underlay_consume (s : Session) (front : List Byte) (n : Nat) :
    (s.underlay front).consume n = (s.consume n).underlay front := by
  simp [Session.underlay, Session.consume, Nat.add_assoc]

/-- Every session is its compacted self with its consumed prefix in front (42_stream_parser.md R94). -/
theorem Session.underlay_dropConsumed (s : Session) (h : s.cur ≤ s.buf.length) :
    s.dropConsumed.underlay (s.buf.take s.cur) = s := by
  simp [Session.underlay, Session.dropConsumed, Nat.min_eq_left h]

/-- The scan does not look at the consumed prefix (10_state.md R27): with more of it, it does the same and gives the same
outcome. -/
theorem Session.scan_underlay (s : Session) (front : List Byte) :
    (s.underlay front).scan = (s.scan.1.underlay front, s.scan.2) := by
  apply Session.scan_induct (s := s) (P := fun s r => (s.underlay front).scan = (r.1.underlay front, r.2))
  case preambleEmpty =>
    intro s h ha
    have av := s.avail_underlay front
    exact Session.scan_preamble_empty (s := s.underlay front) h (av.trans ha)
  case preambleTooLong =>
    intro s b rest h ha hb hp
    have av := s.avail_underlay front
    exact Session.scan_preamble_tooLong (s := s.underlay front) h (av.trans ha) hb hp
  case preambleInsufficient =>
    intro s b rest h ha hb hp
    have av := s.avail_underlay front
    exact Session.scan_preamble_insufficient (s := s.underlay front) h (av.trans ha) hb hp
  case frameTypeEmpty =>
    intro s h ha
    have av := s.avail_underlay front
    exact Session.scan_frameType_empty (s := s.underlay front) h (av.trans ha)
  case frameTypeInvalid =>
    intro s b rest h ha hb
    have av := s.avail_underlay front
    exact Session.scan_frameType_invalid (s := s.underlay front) h (av.trans ha) hb
  case addressNoWidth =>
    intro s h hw
    have av := s.avail_underlay front
    exact Session.scan_address_noWidth (s := s.underlay front) h hw
  case addressShort =>
    intro s w h hw hl
    have av := s.avail_underlay front
    rw [← av]
    exact Session.scan_address_short (s := s.underlay front) h hw (by rwa [av])
  case commandEmpty =>
    intro s h ha
    have av := s.avail_underlay front
    exact Session.scan_command_empty (s := s.underlay front) h (av.trans ha)
  case byteCountEmpty =>
    intro s h ha
    have av := s.avail_underlay front
    exact Session.scan_byteCount_empty (s := s.underlay front) h (av.trans ha)
  case byteCountTooLarge =>
    intro s b rest h ha hb
    have av := s.avail_underlay front
    exact Session.scan_byteCount_tooLarge (s := s.underlay front) h (av.trans ha) hb
  case dataNoCount =>
    intro s h hn
    have av := s.avail_underlay front
    exact Session.scan_data_noCount (s := s.underlay front) h hn
  case dataShort =>
    intro s n h hn hl
    have av := s.avail_underlay front
    rw [← av]
    exact Session.scan_data_short (s := s.underlay front) h hn (by rwa [av])
  case checksumEmpty =>
    intro s h ha
    have av := s.avail_underlay front
    exact Session.scan_checksum_empty (s := s.underlay front) h (av.trans ha)
  case checksumNoField =>
    intro s b rest f h ha hp
    have av := s.avail_underlay front
    exact Session.scan_checksum_noField (s := s.underlay front) h (av.trans ha) hp
  case checksumMismatch =>
    intro s b rest p h ha hp hb
    have av := s.avail_underlay front
    exact Session.scan_checksum_mismatch (s := s.underlay front) h (av.trans ha) hp hb
  case checksumMatch =>
    intro s b rest p h ha hp hb
    have av := s.avail_underlay front
    exact Session.scan_checksum_match (s := s.underlay front) h (av.trans ha) hp hb
  case preambleCount =>
    intro s b rest r h ha hb hp ih
    have av := s.avail_underlay front
    rw [Session.scan_preamble_count (s := s.underlay front) h (av.trans ha) hb hp]
    exact ih
  case preambleEnd =>
    intro s b rest r h ha hb hp ih
    have av := s.avail_underlay front
    rw [Session.scan_preamble_end (s := s.underlay front) h (av.trans ha) hb hp]
    exact ih
  case frameTypeAccept =>
    intro s b rest r h ha hb ih
    have av := s.avail_underlay front
    rw [Session.scan_frameType_accept (s := s.underlay front) h (av.trans ha) hb]
    exact ih
  case addressAccept =>
    intro s w r h hw hl ih
    have av := s.avail_underlay front
    rw [Session.scan_address_accept (s := s.underlay front) h hw (by rwa [av]), av, Session.underlay_consume]
    exact ih
  case commandAccept =>
    intro s b rest r h ha ih
    have av := s.avail_underlay front
    rw [Session.scan_command_accept (s := s.underlay front) h (av.trans ha)]
    exact ih
  case byteCountAccept =>
    intro s b rest r h ha hb ih
    have av := s.avail_underlay front
    rw [Session.scan_byteCount_accept (s := s.underlay front) h (av.trans ha) hb]
    exact ih
  case dataAccept =>
    intro s n r h hn hl ih
    have av := s.avail_underlay front
    rw [Session.scan_data_accept (s := s.underlay front) h hn (by rwa [av]), av, Session.underlay_consume]
    exact ih

/-! ## The invariant -/

theorem capAdmits_mono {c : Capacity} {m n : Nat} (hmn : m ≤ n) (h : capAdmits c n = true) : capAdmits c m = true := by
  cases c with
  | inf => rfl
  | bytes k => simp [capAdmits] at *; omega

/-- Consuming buffered bytes keeps the parts of the invariant about the buffer. -/
theorem Session.Inv_buffer_consume {s : Session} (h : s.Inv) {n : Nat} (hn : n ≤ s.avail.length) :
    s.cur + n ≤ s.buf.length ∧ capAdmits s.cfg.rxCap (s.consume n).avail.length = true := by
  have hl := s.avail_length
  have hc := h.cursor
  exact ⟨by omega, capAdmits_mono (by simp) h.capacity⟩

theorem Session.one_le_of_avail_cons {s : Session} {b : Byte} {rest : List Byte} (h : s.avail = b :: rest) :
    1 ≤ s.avail.length := by
  simp [h]

/-- The parse-state reset keeps the invariant. -/
theorem Session.Inv_resetParse {s : Session} (hl : s.ConfigLegal) (hc : s.cur ≤ s.buf.length)
    (hcap : capAdmits s.cfg.rxCap s.avail.length = true) : s.resetParse.Inv where
  config := hl
  pcount := Nat.zero_le _
  cursor := hc
  capacity := hcap
  fields := ⟨rfl, rfl, rfl, rfl, rfl, rfl⟩
  preambleSeen := fun h => absurd rfl h
  delimiterWaits := fun h => nomatch h

/-- What CHECKSUM reads is the fields of the session (42_stream_parser.md R88). -/
theorem Session.frameRead_ok {s : Session} {r : Byte} {p : ParsedFrame} (h : s.frameRead r = .ok p) :
    s.ftype = some p.frameType ∧ s.addr = some p.address ∧ s.cmd = some p.command ∧ s.bc = some p.byteCount ∧
    s.data = some p.payload ∧ r = p.checksum := by
  unfold Session.frameRead at h
  split at h
  · simp at h
  split at h
  · simp at h
  split at h
  · simp at h
  split at h
  · simp at h
  split at h
  · simp at h
  simp only [Except.ok.injEq] at h
  subst h
  simp_all

/-- A whole and valid frame for a session with configuration `c` (30_encoding.md R60). -/
def ParsedFrame.ValidFor (p : ParsedFrame) (c : Config) : Prop :=
  isDelimiter p.frameType = true ∧ p.address.length = (widthOf p.frameType).bytes ∧ p.byteCount ≤ c.maxBc ∧
  p.payload.length = p.byteCount.toNat ∧ p.checksum = p.computed

/-- From a session that meets the invariant a scan leaves one that does, reads no empty field (10_state.md R28),
and gives only whole and valid frames (30_encoding.md R60). -/
theorem Session.scan_inv (s : Session) (h : s.Inv) :
    s.scan.1.Inv ∧ (∀ f, s.scan.2 ≠ .emptyField f) ∧ ∀ p, s.scan.2 = .frame p → p.ValidFor s.cfg := by
  revert h
  apply Session.scan_induct (s := s) (P := fun s r => s.Inv →
    r.1.Inv ∧ (∀ f, r.2 ≠ .emptyField f) ∧ ∀ p, r.2 = .frame p → p.ValidFor s.cfg)
  case preambleCount =>
    intro s b rest r h ha hb hp ih hi
    obtain ⟨hcur, hcap⟩ := Session.Inv_buffer_consume hi (Session.one_le_of_avail_cons ha)
    refine ih ⟨hi.config, Nat.lt_of_le_of_ne hi.pcount hp, hcur, hcap, ?_, fun hne => absurd h hne, fun he => ?_⟩
    · have := hi.fields
      simpa [Session.FieldsValid, h] using this
    · exact absurd (h.symm.trans he) (by simp)
  case preambleEnd =>
    intro s b rest r h ha hb hp ih hi
    refine ih ⟨hi.config, hi.pcount, hi.cursor, hi.capacity, ?_, fun _ => Nat.le_of_not_lt hp,
      fun _ => ⟨b, rest, ha, hb⟩⟩
    have := hi.fields
    simpa [Session.FieldsValid, h] using this
  case frameTypeAccept =>
    intro s b rest r h ha hb ih hi
    obtain ⟨hcur, hcap⟩ := Session.Inv_buffer_consume hi (Session.one_le_of_avail_cons ha)
    refine ih ⟨hi.config, hi.pcount, hcur, hcap, ?_, fun _ => hi.preambleSeen (by simp [h]), fun he => nomatch he⟩
    have := hi.fields
    simp only [Session.FieldsValid, h] at this
    exact ⟨⟨b, rfl, hb, rfl⟩, this.2.2⟩
  case addressNoWidth =>
    intro s h hw hi
    have := hi.fields
    simp only [Session.FieldsValid, h] at this
    obtain ⟨⟨ft, -, -, haw⟩, -⟩ := this
    exact absurd (hw.symm.trans haw) (by simp)
  case addressAccept =>
    intro s w r h hw hl ih hi
    have hle : w.bytes ≤ s.avail.length := Nat.le_of_not_lt hl
    obtain ⟨hcur, hcap⟩ := Session.Inv_buffer_consume hi hle
    refine ih ⟨hi.config, hi.pcount, hcur, hcap, ?_, fun _ => hi.preambleSeen (by simp [h]), fun he => nomatch he⟩
    have := hi.fields
    simp only [Session.FieldsValid, h] at this
    exact ⟨this.1, ⟨w, _, hw, rfl, by simp [hle]⟩, this.2.2⟩
  case commandAccept =>
    intro s b rest r h ha ih hi
    obtain ⟨hcur, hcap⟩ := Session.Inv_buffer_consume hi (Session.one_le_of_avail_cons ha)
    refine ih ⟨hi.config, hi.pcount, hcur, hcap, ?_, fun _ => hi.preambleSeen (by simp [h]), fun he => nomatch he⟩
    have := hi.fields
    simp only [Session.FieldsValid, h] at this
    exact ⟨this.1, this.2.1, ⟨b, rfl⟩, this.2.2.2⟩
  case byteCountAccept =>
    intro s b rest r h ha hb ih hi
    obtain ⟨hcur, hcap⟩ := Session.Inv_buffer_consume hi (Session.one_le_of_avail_cons ha)
    refine ih ⟨hi.config, hi.pcount, hcur, hcap, ?_, fun _ => hi.preambleSeen (by simp [h]), fun he => nomatch he⟩
    have := hi.fields
    simp only [Session.FieldsValid, h] at this
    exact ⟨this.1, this.2.1, this.2.2.1, ⟨b, rfl, by simpa using hb⟩, this.2.2.2.2⟩
  case dataNoCount =>
    intro s h hn hi
    have := hi.fields
    simp only [Session.FieldsValid, h] at this
    obtain ⟨-, -, -, ⟨n, hn', -⟩, -⟩ := this
    exact absurd (hn.symm.trans hn') (by simp)
  case dataAccept =>
    intro s n r h hn hl ih hi
    have hle : n.toNat ≤ s.avail.length := Nat.le_of_not_lt hl
    obtain ⟨hcur, hcap⟩ := Session.Inv_buffer_consume hi hle
    refine ih ⟨hi.config, hi.pcount, hcur, hcap, ?_, fun _ => hi.preambleSeen (by simp [h]), fun he => nomatch he⟩
    have := hi.fields
    simp only [Session.FieldsValid, h] at this
    exact ⟨this.1, this.2.1, this.2.2.1, this.2.2.2.1, ⟨n, _, hn, rfl, by simp [hle]⟩⟩
  case checksumNoField =>
    intro s b rest f h ha hp hi
    have := hi.fields
    simp only [Session.FieldsValid, h] at this
    obtain ⟨⟨ft, hft, -⟩, ⟨w, a, -, hadr, -⟩, ⟨c, hc⟩, -, ⟨n, d, hn, hd, -⟩⟩ := this
    simp [Session.frameRead, hft, hadr, hc, hn, hd] at hp
  case checksumMatch =>
    intro s b rest p h ha hp hb hi
    obtain ⟨hcur, hcap⟩ := Session.Inv_buffer_consume hi (Session.one_le_of_avail_cons ha)
    refine ⟨Session.Inv_resetParse hi.config hcur hcap, by simp, fun q hq => ?_⟩
    obtain rfl := ScanOutcome.frame.inj hq
    obtain ⟨rft, radr, -, rbc, rd, rcs⟩ := Session.frameRead_ok hp
    have := hi.fields
    simp only [Session.FieldsValid, h] at this
    obtain ⟨⟨ft, hft, hdel, haw⟩, ⟨w, a, hw, hadr, hlen⟩, -, ⟨n, hn, hle⟩, ⟨n', d, hn', hd, hdl⟩⟩ := this
    simp_all [ParsedFrame.ValidFor]
  all_goals simp_all

/-! ## How a scan ends -/

/-- NeedMore (42_stream_parser.md R81, R92): nothing was consumed of the field the scan stopped in, and `k` is what
that field lacks. FRAME_TYPE never asks for more (R83). -/
theorem Session.scan_needMore (s : Session) (hi : s.Inv) {k : Nat} (h : s.scan.2 = .needMore k) :
    1 ≤ k ∧ match s.scan.1.st with
      | .frameType => False
      | .address => ∃ w, s.scan.1.awidth = some w ∧ s.scan.1.avail.length + k = w.bytes
      | .data => ∃ n, s.scan.1.bc = some n ∧ s.scan.1.avail.length + k = n.toNat
      | _ => k = 1 ∧ s.scan.1.avail = [] := by
  have hinv := (s.scan_inv hi).1
  revert hinv h
  apply Session.scan_induct (s := s) (P := fun _ r => r.2 = .needMore k → r.1.Inv →
    1 ≤ k ∧ match r.1.st with
      | .frameType => False
      | .address => ∃ w, r.1.awidth = some w ∧ r.1.avail.length + k = w.bytes
      | .data => ∃ n, r.1.bc = some n ∧ r.1.avail.length + k = n.toNat
      | _ => k = 1 ∧ r.1.avail = [])
  case frameTypeEmpty =>
    intro s h ha _ hi
    obtain ⟨b, rest, hb, -⟩ := hi.delimiterWaits h
    exact absurd (ha.symm.trans hb) (by simp)
  case addressShort =>
    intro s w h hw hl hk _
    simp only [ScanOutcome.needMore.injEq] at hk
    simp only [h]
    exact ⟨by omega, w, hw, by omega⟩
  case dataShort =>
    intro s n h hn hl hk _
    simp only [ScanOutcome.needMore.injEq] at hk
    simp only [h]
    exact ⟨by omega, n, hn, by omega⟩
  case preambleEmpty | commandEmpty | byteCountEmpty | checksumEmpty =>
    intro s h ha hk _
    simp only [ScanOutcome.needMore.injEq] at hk
    simp only [h]
    exact ⟨by omega, by omega, ha⟩
  all_goals simp_all

/-- The information of a violation is that of the session it was raised in (60_exceptions.md R98, R99). -/
def Session.Explains (t : Session) : Violation → Prop
  | .insufficientPreamble b n => b ≠ 0xFF#8 ∧ n = t.pcount ∧ n < t.cfg.minPre
  | .preambleTooLong b n => b = 0xFF#8 ∧ n = t.pcount ∧ n = t.cfg.maxPre
  | .invalidDelimiter b => isDelimiter b = false
  | .byteCountTooLarge b m => m = t.cfg.maxBc ∧ b > m
  | .checksumMismatch c r => r ≠ c ∧ ∃ p, t.frameRead r = .ok p ∧ c = p.computed

/-- A violation (60_exceptions.md R98, R99): the session is in the state that raises it, the offending byte is the
next unconsumed one, and the information is the violation's own. -/
theorem Session.scan_violation (s : Session) {v : Violation} (h : s.scan.2 = .violation v) :
    s.scan.1.st = v.raisedIn ∧ (∃ rest, s.scan.1.avail = v.offendingByte :: rest) ∧ s.scan.1.Explains v := by
  revert h
  apply Session.scan_induct (s := s) (P := fun _ r => r.2 = .violation v →
    r.1.st = v.raisedIn ∧ (∃ rest, r.1.avail = v.offendingByte :: rest) ∧ r.1.Explains v)
  case preambleTooLong =>
    intro s b rest h ha hb hp hv
    obtain rfl := ScanOutcome.violation.inj hv
    exact ⟨h, ⟨rest, ha⟩, hb, rfl, hp⟩
  case preambleInsufficient =>
    intro s b rest h ha hb hp hv
    obtain rfl := ScanOutcome.violation.inj hv
    exact ⟨h, ⟨rest, ha⟩, hb, rfl, hp⟩
  case frameTypeInvalid =>
    intro s b rest h ha hb hv
    obtain rfl := ScanOutcome.violation.inj hv
    exact ⟨h, ⟨rest, ha⟩, hb⟩
  case byteCountTooLarge =>
    intro s b rest h ha hb hv
    obtain rfl := ScanOutcome.violation.inj hv
    exact ⟨h, ⟨rest, ha⟩, rfl, hb⟩
  case checksumMismatch =>
    intro s b rest p h ha hp hb hv
    obtain rfl := ScanOutcome.violation.inj hv
    exact ⟨h, ⟨rest, ha⟩, hb, p, hp, rfl⟩
  all_goals simp_all

/-- A frame ends at its checksum byte, the last one consumed, with the parse state reset (42_stream_parser.md R88,
R89). -/
theorem Session.scan_frame (s : Session) {p : ParsedFrame} (h : s.scan.2 = .frame p) :
    s.scan.1.resetParse = s.scan.1 ∧ ∃ n, s.scan.1.cur = n + 1 ∧ s.cur ≤ n ∧ s.buf[n]? = some p.checksum := by
  revert h
  apply Session.scan_induct (s := s) (P := fun s r => r.2 = .frame p →
    r.1.resetParse = r.1 ∧ ∃ n, r.1.cur = n + 1 ∧ s.cur ≤ n ∧ s.buf[n]? = some p.checksum)
  case checksumMatch =>
    intro s b rest q h ha hp hb hq
    obtain rfl := ScanOutcome.frame.inj hq
    refine ⟨rfl, s.cur, rfl, Nat.le_refl _, ?_⟩
    have : s.avail[0]? = some b := by simp [ha]
    simpa [Session.avail, ← (Session.frameRead_ok hp).2.2.2.2.2] using this
  case preambleEnd => exact fun s b rest r _ _ _ _ ih hf => ih hf
  case preambleCount | frameTypeAccept | addressAccept | commandAccept | byteCountAccept | dataAccept =>
    intros
    rename_i ih hf
    obtain ⟨hr, n, hn, hle, hb⟩ := ih hf
    exact ⟨hr, n, hn, by simp at hle; omega, hb⟩
  all_goals simp_all

end Sys2Proof.Machine
end

