-- ==== Sys2Proof/Laws/Exec.lean ====
section
/-! SUPPORT. Laws/Exec.lean: what an operation can do to the machine, said once (`exec_next_cases`), and that each shared
operation over the session keeps its invariant. -/

namespace Sys2Proof.Machine

open Sys2Proof

/-! ## The shared operations keep the invariant -/

theorem Session.Inv_append {s : Session} (h : s.Inv) (xs : List Byte)
    (hcap : capAdmits s.cfg.rxCap (s.avail.length + xs.length) = true) : (s.append xs).Inv := by
  have hav := s.avail_append xs h.cursor
  refine ⟨h.config, h.pcount, ?_, by rw [hav]; simpa using hcap, h.fields, h.preambleSeen, fun hst => ?_⟩
  · have := h.cursor
    simp only [append_cur, append_buf, List.length_append]
    omega
  · obtain ⟨b, rest, hb, hne⟩ := h.delimiterWaits hst
    exact ⟨b, rest ++ xs, by rw [hav, hb]; rfl, hne⟩

theorem Session.Inv_discard {s : Session} (h : s.Inv) (n : Nat) : (s.discard n).Inv :=
  have hb := Session.Inv_buffer_consume h (Nat.min_le_right n s.avail.length)
  Session.Inv_resetParse h.config hb.1 hb.2

theorem Session.Inv_dropConsumed {s : Session} (h : s.Inv) : s.dropConsumed.Inv :=
  ⟨h.config, h.pcount, Nat.zero_le _, by rw [avail_dropConsumed]; exact h.capacity, h.fields, h.preambleSeen,
    by rw [avail_dropConsumed]; exact h.delimiterWaits⟩

theorem Session.Inv_mark {s : Session} (h : s.Inv) (b : Bool) : Session.Inv { s with refused := b } :=
  ⟨h.config, h.pcount, h.cursor, h.capacity, h.fields, h.preambleSeen, h.delimiterWaits⟩

theorem Session.Inv_fresh {c : Config} (hp : c.minPre ≤ c.maxPre)
    (hc : capAdmits c.rxCap (max 5 c.maxBc.toNat) = true) : (Session.fresh c).Inv :=
  ⟨⟨hp, hc⟩, Nat.zero_le _, Nat.zero_le _, capAdmits_mono (Nat.zero_le _) hc, ⟨rfl, rfl, rfl, rfl, rfl, rfl⟩,
    fun h => absurd rfl h, fun h => nomatch h⟩

/-! ## What an operation can do -/

/-- What returning a scan's outcome does: the session is the scan's, and the result is its outcome. -/
theorem State.endScan_next {s t : State} {r : Session × ScanOutcome} (h : s.endScan r = .next t) :
    ∃ res, t = { s with session := r.1, results := s.results ++ [res] } ∧
      (match r.2 with
       | .frame p => res = .frame p
       | .needMore _ => res = .needMore
       | .violation v => res = .violation v
       | .emptyField _ => False) := by
  rcases r with ⟨u, o⟩
  cases o with
  | emptyField f => simp [State.endScan] at h
  | _ => simp only [State.endScan, Host.Outcome.next.injEq] at h; subst h; exact ⟨_, rfl, rfl⟩

/-- On a created session that may hold them, FEED appends the bytes and returns the scan's outcome. -/
theorem execFeed_eq {s : State} (bytes : List Byte) (hc : s.created = true)
    (hcap : capAdmits s.session.cfg.rxCap (s.session.avail.length + bytes.length) = true) :
    execFeed bytes s = s.endScan (s.session.append bytes).scan := by
  simp [execFeed, hc, hcap]

/-- An operation that answers a next state was refused, or returned one result with the mark and the configuration
as they were, or was a RESET that created the session. -/
theorem exec_next_cases {i : Instr} {s t : State} (h : exec i s = .next t) :
    (∃ r, t = s.refuse r) ∨
    (∃ u r, t = { s with session := u }.deliver r ∧ u.refused = s.session.refused ∧ u.cfg = s.session.cfg) ∨
    (∃ c r, i = .reset c ∧ t = (s.createSession (configRegisters (configValues c))).deliver r) := by
  have gate : ∀ {o : Host.Outcome State Fault Refusal},
      (if s.created = false then .next (s.refuse .noSession) else o) = .next t → t = s.refuse .noSession ∨ o = .next t := by
    intro o h
    split at h
    · exact .inl (by simpa using h.symm)
    · exact .inr h
  cases i with
  | reset c =>
    simp only [exec, execReset] at h
    split at h <;> simp only [Host.Outcome.next.injEq] at h <;> subst h
    · exact .inr (.inr ⟨c, _, rfl, rfl⟩)
    · exact .inl ⟨_, rfl⟩
  | checksum | encodeAddress | encode =>
    simp only [exec, execChecksum, execEncodeAddress, execEncode, Host.Outcome.next.injEq] at h
    subst h
    exact .inr (.inl ⟨s.session, _, rfl, rfl, rfl⟩)
  | feed bytes =>
    rcases gate h with h | h
    · exact .inl ⟨_, h⟩
    split at h
    · exact .inl ⟨_, by simpa using h.symm⟩
    · obtain ⟨res, rfl, -⟩ := State.endScan_next h
      exact .inr (.inl ⟨(s.session.append bytes).scan.1, res, rfl, Session.scan_refused _, Session.scan_cfg _⟩)
  | nextFrame =>
    rcases gate h with h | h
    · exact .inl ⟨_, h⟩
    obtain ⟨res, rfl, -⟩ := State.endScan_next h
    exact .inr (.inl ⟨s.session.scan.1, res, rfl, Session.scan_refused _, Session.scan_cfg _⟩)
  | wants =>
    rcases gate h with h | h
    · exact .inl ⟨_, h⟩
    split at h <;> simp only [Host.Outcome.next.injEq, reduceCtorEq] at h <;> subst h <;>
      exact .inr (.inl ⟨s.session, _, rfl, rfl, rfl⟩)
  | advance n =>
    rcases gate h with h | h
    · exact .inl ⟨_, h⟩
    simp only [Host.Outcome.next.injEq] at h
    subst h
    exact .inr (.inl ⟨_, _, rfl, rfl, rfl⟩)
  | compact =>
    rcases gate h with h | h
    · exact .inl ⟨_, h⟩
    simp only [Host.Outcome.next.injEq] at h
    subst h
    exact .inr (.inl ⟨_, _, rfl, rfl, rfl⟩)

end Sys2Proof.Machine
end

