-- ==== Sys2Proof/Laws/PerInstr.lean ====
section
/-! SUPPORT. Laws/PerInstr.lean: the family `RoundTrip`: an operation, with every operand, is read back from the command that
selects it, and that command carries the operation code of 30_encoding.md R56 and is canonical. -/

namespace Sys2Proof.Laws.RoundTrip

open Sys2Proof

def Statement (i : Instr) : Prop :=
  decode (encode i) = .ok i ∧ (encode i).WellFormed

theorem reset (cfg : ConfigOperand) : Statement (.reset cfg) := ⟨rfl, rfl, .inl ⟨rfl, rfl⟩⟩

theorem checksum (bytes : List Byte) : Statement (.checksum bytes) := ⟨rfl, rfl, .inr (.inl ⟨rfl, rfl⟩)⟩

theorem encodeAddress (a : AddressDesc) : Statement (.encodeAddress a) := ⟨rfl, rfl, .inr (.inr (.inl ⟨rfl, rfl⟩))⟩

theorem encode (f : FrameDesc) (npre : Nat) : Statement (.encode f npre) :=
  ⟨rfl, rfl, .inr (.inr (.inr (.inl ⟨rfl, rfl⟩)))⟩

theorem feed (bytes : List Byte) : Statement (.feed bytes) := ⟨rfl, rfl, .inr (.inr (.inr (.inr (.inl ⟨rfl, rfl⟩))))⟩

theorem nextFrame : Statement .nextFrame := ⟨rfl, rfl, .inr (.inr (.inr (.inr (.inr (.inl ⟨rfl, rfl⟩)))))⟩

theorem wants : Statement .wants := ⟨rfl, rfl, .inr (.inr (.inr (.inr (.inr (.inr (.inl ⟨rfl, rfl⟩))))))⟩

theorem advance (n : Nat) : Statement (.advance n) :=
  ⟨rfl, rfl, .inr (.inr (.inr (.inr (.inr (.inr (.inr (.inl ⟨rfl, rfl⟩)))))))⟩

theorem compact : Statement .compact := ⟨rfl, rfl, .inr (.inr (.inr (.inr (.inr (.inr (.inr (.inr ⟨rfl, rfl⟩)))))))⟩

end Sys2Proof.Laws.RoundTrip
end

