-- ==== Sys2Proof/Tests/Slice0.lean ====
section
/-! SUPPORT. Tests/Slice0.lean: the checks of WellFormed with an ill-formed term each, the operation codes bit by bit, small
one-step tests whose expected results are the vectors of 95_test_vectors.md (named in each test), and for every
obligation with hypotheses a state and operands that meet them (`witness_<obligation>`). -/

namespace Sys2Proof.Tests

open Sys2Proof Sys2Proof.Machine

/-! ## Helpers -/

/-- A created session with configuration `c` whose buffer holds `bytes`, none of them scanned yet. -/
def holding (c : Config) (bytes : List Byte) : State :=
  { State.reset with session := (Session.fresh c).append bytes }

/-- The state after the scan of those bytes. -/
def scanned (c : Config) (bytes : List Byte) : State :=
  { State.reset with session := ((Session.fresh c).append bytes).scan.1 }

/-- The result a step from a state without results returns. -/
def result (o : Host.Outcome State Fault Refusal) : Option Result :=
  match o with
  | .next t => t.results.head?
  | _ => none

/-- What a step leaves of the session: state, preamble count, cursor and unconsumed bytes. -/
def summary (o : Host.Outcome State Fault Refusal) : Option (ParseState × Nat × Nat × List Byte) :=
  match o with
  | .next t => some (t.session.st, t.session.pcount, t.session.cur, t.session.avail)
  | _ => none

/-- What a step leaves of the marks: the session's mark and the reasons. -/
def marks (o : Host.Outcome State Fault Refusal) : Option (Bool × List RefusalReason) :=
  match o with
  | .next t => some (t.session.refused, t.refusals)
  | _ => none

def cfgMaxBc4 : Config := { Config.default with maxBc := 4#8 }
def cfgCap8 : Config := { Config.default with maxBc := 8#8, rxCap := .bytes 8 }
def cfgMaxPre2 : Config := { Config.default with maxPre := 2 }
def cfgZero : Config := { Config.default with bcast := .zero }

/-- Packet `PA` of 95_test_vectors.md. -/
def packetA : List Byte := [0xFF#8, 0xFF#8, 0x02#8, 0x80#8, 0x00#8, 0x00#8, 0x82#8]

/-- The descriptor of `PA` (V-E1). -/
def frameA : FrameDesc := { frameType := 0x02, address := .short true 0, command := 0, payload := [] }

/-- The frame of `PA` (V-P1). -/
def parsedA : ParsedFrame :=
  { frameType := 0x02#8, address := [0x80#8], command := 0x00#8, byteCount := 0x00#8, payload := [], checksum := 0x82#8 }

theorem holding_inv {c : Config} {bytes : List Byte} (hp : c.minPre ≤ c.maxPre)
    (hc : capAdmits c.rxCap (max 5 c.maxBc.toNat) = true) (hb : capAdmits c.rxCap bytes.length = true) :
    (holding c bytes).Inv :=
  Session.Inv_append (Session.Inv_fresh hp hc) bytes (by simpa using hb)

theorem scanned_inv {c : Config} {bytes : List Byte} (hp : c.minPre ≤ c.maxPre)
    (hc : capAdmits c.rxCap (max 5 c.maxBc.toNat) = true) (hb : capAdmits c.rxCap bytes.length = true) :
    (scanned c bytes).Inv :=
  (Session.scan_inv _ (holding_inv hp hc hb)).1

/-! ## WellFormed -/

theorem test_wf_slave : ¬ (AddressDesc.short true 64).WellFormed := by decide
theorem test_wf_slave_top : (AddressDesc.short true 63).WellFormed := by decide
theorem test_wf_mfgId : ¬ (AddressDesc.long true false 64 0 0 false).WellFormed := by decide
theorem test_wf_deviceType : ¬ (AddressDesc.long true false 0 256 0 false).WellFormed := by decide
theorem test_wf_identificationNumber : ¬ (AddressDesc.long true false 0 0 16777216 true).WellFormed := by decide
theorem test_wf_long_top : (AddressDesc.long true false 63 255 16777215 true).WellFormed := by decide
theorem test_wf_short_width : ¬ (Instr.encode ⟨0x82, .short true 0, 0, []⟩ 2).WellFormed := by decide
theorem test_wf_long_width :
    ¬ (Instr.encode ⟨0x06, .long true false 10 100 1193046 false, 0, []⟩ 2).WellFormed := by
  decide
theorem test_wf_frame_type : ¬ (Instr.encode ⟨0x01, .short true 0, 0, []⟩ 2).WellFormed := by decide
theorem test_wf_address : ¬ (Instr.encode ⟨0x02, .short true 64, 0, []⟩ 2).WellFormed := by decide
theorem test_wf_frame_command : ¬ (Instr.encode ⟨0x02, .short true 0, 256, []⟩ 2).WellFormed := by decide
theorem test_wf_payload : ¬ (Instr.encode ⟨0x02, .short true 0, 0, List.replicate 256 0x00#8⟩ 2).WellFormed :=
  fun h => by
    have hp : (List.replicate 256 0x00#8).length ≤ 255 := h.1.2.2.2
    rw [List.length_replicate] at hp
    omega
theorem test_wf_preamble : ¬ (Instr.encode ⟨0x02, .short true 0, 0, []⟩ 1).WellFormed := by decide
theorem test_wf_frame : (Instr.encode ⟨0x02, .short true 0, 255, [0xFF#8]⟩ 2).WellFormed := by decide
theorem test_wf_encode_address : ¬ (Instr.encodeAddress (.short false 64)).WellFormed := by decide
theorem test_wf_preamble_bounds : ¬ (Instr.reset { minPre := some 5, maxPre := some 4 }).WellFormed := by decide
theorem test_wf_min_over_default : ¬ (Instr.reset { minPre := some 33 }).WellFormed := by decide
theorem test_wf_max_bc : ¬ (Instr.reset { maxBc := some 256 }).WellFormed := by decide
theorem test_wf_capacity : ¬ (Instr.reset { rxCap := some (.bytes 8) }).WellFormed := by decide
theorem test_wf_capacity_address : ¬ (Instr.reset { maxBc := some 0, rxCap := some (.bytes 4) }).WellFormed := by decide
theorem test_wf_defaults : (Instr.reset {}).WellFormed := by decide
theorem test_wf_command_code : ¬ (commandOfWord 0x15).WellFormed := by decide
theorem test_wf_command_overlapping : ¬ Command.WellFormed { commandOfWord 0x12 with overlapping := true } := by decide
theorem test_wf_command_lane :
    ¬ Command.WellFormed { commandOfWord 0x12 with operands := { Operands.idle with count := 1 } } := by decide
theorem test_wf_command : (commandOfWord 0x12).WellFormed := by decide

/-! ## Operation codes, bit by bit (30_encoding.md R56) -/

theorem test_op_reset : decodeTableWord 8 0b00000000 = some (.reset {}) := by decide
theorem test_op_checksum : decodeTableWord 8 0b00000001 = some (.checksum []) := by decide
theorem test_op_encode_address : decodeTableWord 8 0b00000010 = some (.encodeAddress (.short false 0)) := by decide
theorem test_op_encode : decodeTableWord 8 0b00000011 = some (.encode ⟨0, .short false 0, 0, []⟩ 0) := by decide
theorem test_op_feed : decodeTableWord 8 0b00010000 = some (.feed []) := by decide
theorem test_op_next_frame : decodeTableWord 8 0b00010001 = some .nextFrame := by decide
theorem test_op_wants : decodeTableWord 8 0b00010010 = some .wants := by decide
theorem test_op_advance : decodeTableWord 8 0b00010011 = some (.advance 0) := by decide
theorem test_op_compact : decodeTableWord 8 0b00010100 = some .compact := by decide
theorem test_op_gap : decodeTableWord 8 0b00000100 = none ∧ decodeTableWord 8 0b00001111 = none := by decide
theorem test_op_above : decodeTableWord 8 0b00010101 = none ∧ decodeTableWord 8 0b11111111 = none := by decide

/-! ## One step of each operation (95_test_vectors.md section 2) -/

/-- V-C2. -/
theorem test_checksum : result (exec (.checksum [0x02#8, 0x80#8, 0x00#8, 0x00#8]) State.noSession) = some (.byte 0x82#8) := by
  decide
/-- V-C4. -/
theorem test_checksum_cancels : result (exec (.checksum [0xAA#8, 0xAA#8]) State.reset) = some (.byte 0x00#8) := by decide
/-- V-A10. -/
theorem test_encode_address :
    result (exec (.encodeAddress (.long true true 38 10 1 false)) State.reset) =
      some (.bytes [0xE6#8, 0x0A#8, 0x00#8, 0x00#8, 0x01#8]) := by decide
/-- V-A7 under ZERO. -/
theorem test_encode_address_zero :
    result (exec (.encodeAddress (.long true false 10 100 1193046 true)) (holding cfgZero [])) =
      some (.bytes [0x8A#8, 0x00#8, 0x00#8, 0x00#8, 0x00#8]) := by decide
/-- V-E4. -/
theorem test_encode :
    result (exec (.encode ⟨0x82, .long true false 10 100 1193046 true, 11, [0x41#8, 0x42#8]⟩ 3) State.reset) =
      some (.bytes [0xFF#8, 0xFF#8, 0xFF#8, 0x82#8, 0x8A#8, 0x64#8, 0x00#8, 0x00#8, 0x00#8, 0x0B#8, 0x02#8, 0x41#8,
        0x42#8, 0x66#8]) := by decide
/-- V-E16. -/
theorem test_encode_order :
    result (exec (.encode ⟨0x82, .short true 64, 0, []⟩ 2) State.reset) =
      some (.constructionError (.addressWidthMismatch 0x82 .one)) := by decide
/-- V-P22. -/
theorem test_feed :
    result (exec (.feed [0xFF#8, 0xFF#8, 0x86#8, 0x26#8, 0x0A#8, 0x00#8, 0x00#8, 0x01#8, 0x03#8, 0x06#8, 0x00#8, 0x00#8,
        0x40#8, 0xA0#8, 0x00#8, 0x00#8, 0x4E#8]) State.reset) =
      some (.frame ⟨0x86#8, [0x26#8, 0x0A#8, 0x00#8, 0x00#8, 0x01#8], 0x03#8, 0x06#8,
        [0x00#8, 0x00#8, 0x40#8, 0xA0#8, 0x00#8, 0x00#8], 0x4E#8⟩) := by decide
/-- V-P6. -/
theorem test_feed_preamble_too_long :
    result (exec (.feed (List.replicate 33 0xFF#8)) State.reset) = some (.violation (.preambleTooLong 0xFF#8 32)) ∧
    summary (exec (.feed (List.replicate 33 0xFF#8)) State.reset) = some (.preamble, 32, 32, [0xFF#8]) := by decide
/-- V-P12, scanned by NEXT_FRAME. -/
theorem test_next_frame :
    let s := holding Config.default [0xFF#8, 0xFF#8, 0x02#8, 0x80#8, 0x00#8, 0x00#8, 0x83#8]
    result (exec .nextFrame s) = some (.violation (.checksumMismatch 0x82#8 0x83#8)) ∧
    summary (exec .nextFrame s) = some (.checksum, 2, 6, [0x83#8]) := by decide
/-- V-P27. -/
theorem test_next_frame_need_more :
    let s := holding Config.default [0xFF#8, 0xFF#8, 0x82#8, 0x80#8, 0x00#8, 0x00#8, 0x82#8]
    result (exec .nextFrame s) = some .needMore ∧
    summary (exec .nextFrame s) = some (.address, 2, 3, [0x80#8, 0x00#8, 0x00#8, 0x82#8]) := by decide
/-- V-W2. -/
theorem test_wants :
    result (exec .wants (scanned Config.default [0xFF#8, 0xFF#8, 0x82#8, 0x8A#8])) = some (.count 4) := by decide
/-- V-P14: 0 with a whole frame buffered. -/
theorem test_wants_frame : result (exec .wants (holding Config.default packetA)) = some (.count 0) := by decide
/-- V-D1: the discard is clamped. -/
theorem test_advance :
    summary (exec (.advance 100) (scanned Config.default [0xFF#8, 0xFF#8, 0x02#8, 0x80#8])) =
      some (.preamble, 0, 4, []) := by decide
/-- V-D6: nothing discarded, the parse state reset. -/
theorem test_advance_zero :
    summary (exec (.advance 0) (scanned Config.default [0xFF#8, 0xFF#8, 0x02#8, 0x80#8, 0x00#8, 0x00#8, 0x83#8])) =
      some (.preamble, 0, 6, [0x83#8]) := by decide
/-- V-D3. -/
theorem test_compact :
    summary (exec .compact (scanned Config.default (packetA ++ [0xFF#8]))) = some (.preamble, 0, 0, [0xFF#8]) := by decide
/-- V-R2. -/
theorem test_reset :
    summary (exec (.reset {}) (scanned Config.default [0xFF#8, 0xFF#8, 0x02#8])) = some (.preamble, 0, 0, []) := by decide
/-- V-R6, V-R8, V-R10 and V-R11, in this order: the mark and the reason. -/
theorem test_refusals :
    marks (exec (.reset { rxCap := some (.bytes 8) }) State.noSession) = some (true, [.illegalConfig]) ∧
    marks (exec (.feed [0xFF#8, 0xFF#8, 0x02#8, 0x80#8, 0x00#8, 0x08#8, 0x01#8, 0x02#8, 0x03#8]) (scanned cfgCap8 packetA)) =
      some (true, [.rxOverflow]) ∧
    marks (exec (.feed packetA) State.noSession) = some (true, [.noSession]) ∧
    marks (step (State.reset.withFetchWord 8 0x15)) = some (true, [.badOpcode]) := by decide
theorem test_step_runs_word :
    result (step (State.reset.withFetchWord 8 0x12)) = some (.count 1) := by decide
/-- A line of program 3. -/
theorem test_assemble_line :
    assembleLine "RESET max_bc=8 rx_cap=21" = some [.reset { maxBc := some 8, rxCap := some (.bytes 21) }] := by decide

/-! ## Witnesses: a state and operands that meet the hypotheses of each obligation -/

/-- A machine with one command waiting. -/
def waiting (c : Command) : State :=
  { State.reset with pending := [c] }

/-- A command begun while another operation is in progress. -/
def overlap (w : Nat) : Command :=
  { commandOfWord w with overlapping := true }

theorem witness_DecodeEncodeAgree :
    Command.WellFormed { commandOfWord 0x13 with operands := { Operands.idle with count := 7 } } := by decide

theorem witness_UnassignedCodeRefused_low :
    (waiting (commandOfWord 0x04)).pending = [commandOfWord 0x04] ∧
      (0x04 ≤ (commandOfWord 0x04).op.toNat ∧ (commandOfWord 0x04).op.toNat ≤ 0x0F) := by decide
theorem witness_UnassignedCodeRefused_high :
    (waiting (overlap 0xFF)).pending = [overlap 0xFF] ∧ 0x15 ≤ (overlap 0xFF).op.toNat := by decide

theorem witness_StepRunsDecodedOperation :
    (waiting (commandOfWord 0x14)).pending = [commandOfWord 0x14] ∧ decode (commandOfWord 0x14) = .ok .compact ∧
      (commandOfWord 0x14).overlapping = false := ⟨rfl, rfl, rfl⟩
theorem witness_StepRunsDecodedOperation_encoder :
    (waiting (overlap 0x01)).pending = [overlap 0x01] ∧ decode (overlap 0x01) = .ok (.checksum []) ∧
      onSession (.checksum []) = false := ⟨rfl, rfl, rfl⟩
theorem witness_StepRunsDecodedOperation_word : decodeTableWord 8 0x11 = some .nextFrame := by decide

theorem witness_OverlappingOperationRefused :
    (waiting (overlap 0x10)).pending = [overlap 0x10] ∧ decode (overlap 0x10) = .ok (.feed []) ∧
      (overlap 0x10).overlapping = true := ⟨rfl, rfl, rfl⟩
theorem witness_OverlappingOperationRefused_encoder :
    (waiting (overlap 0x02)).pending = [overlap 0x02] ∧
      decode (overlap 0x02) = .ok (.encodeAddress (.short false 0)) ∧ (overlap 0x02).overlapping = true := ⟨rfl, rfl, rfl⟩

theorem witness_IdleStepChangesNothing : State.reset.pending = [] := rfl

theorem witness_PseudoOperationsExpand :
    ∃ t u, exec (.advance 1) State.reset = .next t ∧ exec .nextFrame t = .next u := ⟨_, _, rfl, rfl⟩
theorem witness_PseudoOperationsExpand_resetParse : ∃ t, exec (.advance 0) State.reset = .next t := ⟨_, rfl⟩

theorem witness_ResetCreatesSession :
    ConfigOperand.WellFormed { minPre := some 2, maxPre := some 2, maxBc := some 255, rxCap := some (.bytes 255) } := by
  decide

theorem witness_IllegalConfigurationRefused_preamble :
    (ConfigOperand.maxPre { minPre := some 33 }).getD 32 < (ConfigOperand.minPre { minPre := some 33 }).getD 2 := by decide
theorem witness_IllegalConfigurationRefused_maxBc : 255 < (ConfigOperand.maxBc { maxBc := some 256 }).getD 255 := by decide
theorem witness_IllegalConfigurationRefused_capacity :
    ∃ n, ConfigOperand.rxCap { maxBc := some 0, rxCap := some (.bytes 4) } = some (.bytes n) ∧
      n < max 5 ((ConfigOperand.maxBc { maxBc := some 0, rxCap := some (.bytes 4) }).getD 255) := ⟨4, rfl, by decide⟩

theorem witness_ConfigurationFixedBetweenResets :
    (∀ c, Instr.feed packetA ≠ .reset c) ∧ ∃ t, exec (.feed packetA) State.reset = .next t :=
  ⟨fun _ => by simp, _, rfl⟩

theorem witness_ParserNeedsSession : State.noSession.created = false := rfl

theorem witness_ChecksumLaws_order : [0x02#8, 0x80#8, 0x00#8, 0x00#8].Perm [0x00#8, 0x80#8, 0x02#8, 0x00#8] := by decide
theorem witness_ChecksumLaws_bit : 3 < ([0x02#8, 0x80#8, 0x00#8, 0x00#8] : List Byte).length ∧ 7 < 8 ∧ 0 < 8 := by decide
theorem witness_ChecksumLaws_cancel :
    0 < ([0x02#8, 0x80#8] : List Byte).length ∧ 1 < ([0x02#8, 0x80#8] : List Byte).length ∧ 7 < 8 ∧ (0 : Nat) ≠ 1 := by
  decide

theorem witness_ShortAddressEncoded : 63 ≤ 63 := by decide
theorem witness_LongAddressEncoded : 63 ≤ 63 ∧ 255 ≤ 255 ∧ 16777215 ≤ 16777215 := by decide
theorem witness_AddressRangeChecked_slave : 63 < 64 := by decide
theorem witness_AddressRangeChecked_mfgId : 63 < 64 := by decide
theorem witness_AddressRangeChecked_deviceType : 63 ≤ 63 ∧ 255 < 256 := by decide
theorem witness_AddressRangeChecked_identificationNumber : 63 ≤ 63 ∧ 255 ≤ 255 ∧ 16777215 < 16777216 := by decide

theorem witness_EncodeAssemblesPacket :
    FrameDesc.WellFormed ⟨0x86, .long false true 63 255 16777215 true, 255, [0xFF#8]⟩ ∧ 2 ≤ 2 := by decide

theorem witness_EncodeCheckOrder_preamble : 1 < 2 := by decide
theorem witness_EncodeCheckOrder_frameType :
    2 ≤ 2 ∧ ¬ (0x01 = 0x02 ∨ 0x01 = 0x06 ∨ 0x01 = 0x82 ∨ 0x01 = 0x86) := by decide
theorem witness_EncodeCheckOrder_width :
    2 ≤ 2 ∧ (0x82 = 0x02 ∨ 0x82 = 0x06 ∨ 0x82 = 0x82 ∨ 0x82 = 0x86) ∧
      ¬ FrameDesc.WidthConsistent ⟨0x82, .short true 64, 0, []⟩ := by decide
theorem witness_EncodeCheckOrder_address :
    2 ≤ 2 ∧ FrameDesc.WidthConsistent ⟨0x02, .short true 64, 256, []⟩ ∧
      exec (.encodeAddress (.short true 64)) State.reset =
        .next { State.reset with results := [.constructionError (.fieldOutOfRange .slave 64)] } :=
  ⟨by decide, by decide, rfl⟩
theorem witness_EncodeCheckOrder_command :
    2 ≤ 2 ∧ FrameDesc.WidthConsistent ⟨0x02, .short true 63, 256, []⟩ ∧ (AddressDesc.short true 63).WellFormed ∧
      255 < 256 := by decide
theorem witness_EncodeCheckOrder_payload :
    2 ≤ 2 ∧ FrameDesc.WidthConsistent ⟨0x02, .short true 63, 255, List.replicate 256 0x00#8⟩ ∧
      (AddressDesc.short true 63).WellFormed ∧ 255 ≤ 255 ∧ 255 < (List.replicate 256 0x00#8).length := by
  refine ⟨by decide, by decide, by decide, by decide, ?_⟩
  rw [List.length_replicate]
  decide

theorem witness_EncodeAtomic :
    exec (.encode frameA 2) State.reset = .next { State.reset with results := State.reset.results ++ [.bytes packetA] } ∧
      exec (.encodeAddress frameA.address) State.reset =
        .next { State.reset with results := State.reset.results ++ [.bytes [0x80#8]] } := ⟨rfl, rfl⟩

theorem witness_PacketProperties :
    exec (.encode frameA 2) State.reset = .next { State.reset with results := State.reset.results ++ [.bytes packetA] } :=
  rfl

theorem witness_EncoderStateless :
    onSession (.encode frameA 2) = false ∧ (holding cfgZero []).session.cfg.bcast = .zero := by decide

/-- A session of the default configuration in a state of the scan, with bytes to read. -/
def reading (st : ParseState) (bytes : List Byte) : Session :=
  { Session.fresh Config.default with st := st, buf := bytes }

theorem witness_PreambleRule_empty : (reading .preamble []).st = .preamble ∧ (reading .preamble []).avail = [] := by decide
theorem witness_PreambleRule_tooLong :
    let s := { reading .preamble [0xFF#8] with pcount := 32 }
    s.st = .preamble ∧ Session.avail s = [0xFF#8] ∧ s.pcount = s.cfg.maxPre := by decide
theorem witness_PreambleRule_count :
    let s := { reading .preamble [0xFF#8] with pcount := 31 }
    s.st = .preamble ∧ Session.avail s = [0xFF#8] ∧ s.pcount ≠ s.cfg.maxPre := by decide
theorem witness_PreambleRule_insufficient :
    let s := { reading .preamble [0x02#8] with pcount := 1 }
    s.st = .preamble ∧ Session.avail s = [0x02#8] ∧ 0x02#8 ≠ 0xFF#8 ∧ s.pcount < s.cfg.minPre := by decide
theorem witness_PreambleRule_end :
    let s := { reading .preamble [0x02#8] with pcount := 2 }
    s.st = .preamble ∧ Session.avail s = [0x02#8] ∧ 0x02#8 ≠ 0xFF#8 ∧ s.cfg.minPre ≤ s.pcount := by decide

theorem witness_FrameTypeRule_inv :
    (scanned Config.default [0xFF#8, 0xFF#8, 0x01#8]).session.st = .frameType ∧
      (scanned Config.default [0xFF#8, 0xFF#8, 0x01#8]).session.Inv :=
  ⟨by decide, scanned_inv (by decide) (by decide) (by decide)⟩
theorem witness_FrameTypeRule_empty : (reading .frameType []).st = .frameType ∧ (reading .frameType []).avail = [] := by decide
theorem witness_FrameTypeRule_invalid :
    (reading .frameType [0x01#8]).avail = [0x01#8] ∧
      ¬ (0x01#8 = 0x02#8 ∨ 0x01#8 = 0x06#8 ∨ 0x01#8 = 0x82#8 ∨ 0x01#8 = 0x86#8) := by decide
theorem witness_FrameTypeRule_accept :
    (reading .frameType [0x86#8]).avail = [0x86#8] ∧
      (0x86#8 = 0x02#8 ∨ 0x86#8 = 0x06#8 ∨ 0x86#8 = 0x82#8 ∨ 0x86#8 = 0x86#8) := by decide

theorem witness_AddressRule_short :
    let s := { reading .address [0x8A#8, 0x64#8, 0x12#8, 0x34#8] with awidth := some .five }
    s.st = .address ∧ s.awidth = some .five ∧ (Session.avail s).length < 5 := by decide
theorem witness_AddressRule_accept :
    let s := { reading .address [0x80#8] with awidth := some .one }
    s.st = .address ∧ s.awidth = some .one ∧ 1 ≤ (Session.avail s).length := by decide

theorem witness_CommandRule_empty : (reading .command []).st = .command ∧ (reading .command []).avail = [] := by decide
theorem witness_CommandRule_accept :
    (reading .command [0xFF#8]).st = .command ∧ (reading .command [0xFF#8]).avail = [0xFF#8] := by decide

theorem witness_ByteCountRule_empty : (reading .byteCount []).st = .byteCount ∧ (reading .byteCount []).avail = [] := by decide
theorem witness_ByteCountRule_tooLarge :
    let s := { reading .byteCount [0x05#8] with cfg := cfgMaxBc4 }
    s.st = .byteCount ∧ Session.avail s = [0x05#8] ∧ s.cfg.maxBc.toNat < (0x05#8).toNat := by decide
theorem witness_ByteCountRule_accept :
    let s := { reading .byteCount [0x04#8] with cfg := cfgMaxBc4 }
    s.st = .byteCount ∧ Session.avail s = [0x04#8] ∧ (0x04#8).toNat ≤ s.cfg.maxBc.toNat := by decide

theorem witness_DataRule_short :
    let s := { reading .data [0x00#8] with bc := some 2#8 }
    s.st = .data ∧ s.bc = some 2#8 ∧ (Session.avail s).length < (2#8).toNat := by decide
theorem witness_DataRule_accept :
    let s := { reading .data [] with bc := some 0#8 }
    s.st = .data ∧ s.bc = some 0#8 ∧ (0#8).toNat ≤ (Session.avail s).length := by decide

/-- A session in CHECKSUM with the fields of `PA` and bytes to read. -/
def readingSum (bytes : List Byte) : Session :=
  { reading .checksum bytes with
    ftype := some 0x02#8, awidth := some .one, addr := some [0x80#8], cmd := some 0x00#8, bc := some 0x00#8, data := some [] }

theorem witness_ChecksumRule_empty :
    let s := readingSum []
    s.st = .checksum ∧ s.ftype = some 0x02#8 ∧ s.addr = some [0x80#8] ∧ s.cmd = some 0x00#8 ∧ s.bc = some 0x00#8 ∧
      s.data = some [] ∧ s.avail = [] := by decide
theorem witness_ChecksumRule_mismatch :
    (readingSum [0x83#8]).avail = [0x83#8] ∧ 0x83#8 ≠ xorfold ([0x02#8] ++ [0x80#8] ++ [0x00#8, 0x00#8] ++ []) := by decide
theorem witness_ChecksumRule_match :
    (readingSum [0x82#8]).avail = [0x82#8] ∧ 0x82#8 = xorfold ([0x02#8] ++ [0x80#8] ++ [0x00#8, 0x00#8] ++ []) := by decide

/-- V-R9: three bytes held and five fed are exactly the capacity. -/
theorem witness_FeedAppendsAndScans :
    (holding cfgCap8 [0x00#8, 0x00#8, 0x00#8]).Inv ∧ (holding cfgCap8 [0x00#8, 0x00#8, 0x00#8]).created = true ∧
      ∀ n, (holding cfgCap8 [0x00#8, 0x00#8, 0x00#8]).session.cfg.rxCap = .bytes n →
        (holding cfgCap8 [0x00#8, 0x00#8, 0x00#8]).session.avail.length + (List.replicate 5 0xFF#8).length ≤ n :=
  ⟨holding_inv (by decide) (by decide) (by decide), rfl, fun n h => by
    have hn : 8 = n := by simpa [holding, cfgCap8] using h
    subst hn
    decide⟩

theorem witness_FeedOverflowRefused :
    (holding cfgCap8 []).created = true ∧ (holding cfgCap8 []).session.cfg.rxCap = .bytes 8 ∧
      8 < (holding cfgCap8 []).session.avail.length + (List.replicate 9 0xFF#8).length := by decide

theorem witness_NextFrameScans :
    (holding Config.default packetA).Inv ∧ (holding Config.default packetA).created = true :=
  ⟨holding_inv (by decide) (by decide) (by decide), rfl⟩

theorem witness_FeedNothingIsNextFrame : (holding Config.default packetA).Inv :=
  holding_inv (by decide) (by decide) (by decide)

theorem witness_ReturnedFrameIsValid :
    (holding Config.default packetA).Inv ∧
      ∃ t, exec .nextFrame (holding Config.default packetA) = .next t ∧ t.results = [.frame parsedA] :=
  ⟨holding_inv (by decide) (by decide) (by decide), _, rfl, by decide⟩

theorem witness_ReturnedViolationInformation_insufficientPreamble :
    ∃ t, exec (.feed [0x13#8]) State.reset = .next t ∧ t.results = [.violation (.insufficientPreamble 0x13#8 0)] :=
  ⟨_, rfl, by decide⟩
theorem witness_ReturnedViolationInformation_preambleTooLong :
    ∃ t, exec .nextFrame (holding cfgMaxPre2 [0xFF#8, 0xFF#8, 0xFF#8, 0x02#8]) = .next t ∧
      t.results = [.violation (.preambleTooLong 0xFF#8 2)] := ⟨_, rfl, by decide⟩
theorem witness_ReturnedViolationInformation_invalidDelimiter :
    ∃ t, exec (.feed [0xFF#8, 0xFF#8, 0xFF#8, 0x81#8]) State.reset = .next t ∧
      t.results = [.violation (.invalidDelimiter 0x81#8)] := ⟨_, rfl, by decide⟩
theorem witness_ReturnedViolationInformation_byteCountTooLarge :
    ∃ t, exec .nextFrame (holding cfgMaxBc4 [0xFF#8, 0xFF#8, 0x02#8, 0x80#8, 0x00#8, 0x05#8]) = .next t ∧
      t.results = [.violation (.byteCountTooLarge 0x05#8 0x04#8)] := ⟨_, rfl, by decide⟩
theorem witness_ReturnedViolationInformation_checksumMismatch :
    ∃ t, exec (.feed [0xFF#8, 0xFF#8, 0x02#8, 0x80#8, 0x00#8, 0x00#8, 0x83#8]) State.reset = .next t ∧
      t.results = [.violation (.checksumMismatch 0x82#8 0x83#8)] := ⟨_, rfl, by decide⟩

theorem witness_ViolationPersists_returned :
    ∃ t, exec .nextFrame (holding Config.default [0x13#8]) = .next t ∧
      t.results = [.violation (.insufficientPreamble 0x13#8 0)] := ⟨_, rfl, by decide⟩
/-- V-P8: an invalid delimiter pending behind a consumed preamble. -/
theorem witness_ViolationPersists_pending :
    let s := scanned Config.default [0xFF#8, 0xFF#8, 0x01#8, 0x80#8]
    s.created = true ∧ s.session.cur ≤ s.session.buf.length ∧ s.session.scan = (s.session, .violation (.invalidDelimiter 0x01#8)) ∧
      s.session.cfg.rxCap = .inf := by decide

theorem witness_WantsLooksAhead :
    (scanned Config.default [0xFF#8, 0xFF#8, 0x82#8, 0x8A#8]).Inv ∧
      (scanned Config.default [0xFF#8, 0xFF#8, 0x82#8, 0x8A#8]).created = true :=
  ⟨scanned_inv (by decide) (by decide) (by decide), rfl⟩
theorem witness_WantsLooksAhead_frame :
    ∃ t, exec .nextFrame (holding Config.default packetA) = .next t ∧ t.results = [.frame parsedA] := ⟨_, rfl, by decide⟩
theorem witness_WantsLooksAhead_violation :
    ∃ t, exec .nextFrame (holding Config.default [0x13#8]) = .next t ∧
      t.results = [.violation (.insufficientPreamble 0x13#8 0)] := ⟨_, rfl, by decide⟩
theorem witness_WantsLooksAhead_needMore :
    ∃ t, exec .nextFrame (scanned Config.default [0xFF#8, 0xFF#8, 0x82#8, 0x8A#8]) = .next t ∧ t.results = [.needMore] :=
  ⟨_, rfl, by decide⟩

theorem witness_WantsLooksAhead_hint :
    (scanned Config.default [0xFF#8, 0xFF#8, 0x82#8, 0x8A#8]).session.Inv ∧
      (scanned Config.default [0xFF#8, 0xFF#8, 0x82#8, 0x8A#8]).session.scan =
        ((scanned Config.default [0xFF#8, 0xFF#8, 0x82#8, 0x8A#8]).session, .needMore 4) ∧
      ([0x64#8, 0x12#8, 0x34#8] : List Byte).length < 4 ∧ ([0x64#8, 0x12#8, 0x34#8, 0x56#8] : List Byte).length = 4 :=
  ⟨scanned_inv (by decide) (by decide) (by decide), by decide, by decide, by decide⟩

theorem witness_WantsNeverOverflows :
    let s := scanned cfgCap8 [0xFF#8, 0xFF#8, 0x02#8, 0x80#8, 0x00#8, 0x08#8]
    s.Inv ∧ s.created = true ∧ s.session.scan = (s.session, .needMore 8) ∧ (List.replicate 8 0x00#8).length = 8 ∧
      ∃ t, exec (.feed (List.replicate 8 0x00#8)) s = .next t :=
  ⟨scanned_inv (by decide) (by decide) (by decide), rfl, by decide, by decide, _, rfl⟩

theorem witness_AdvanceDiscardsAndResets : (holding Config.default packetA).created = true := rfl

theorem witness_AdvanceDropsOffendingByte :
    let s := scanned Config.default [0xFF#8, 0xFF#8, 0x02#8, 0x80#8, 0x00#8, 0x00#8, 0x83#8]
    s.created = true ∧ s.session.scan = (s.session, .violation (.checksumMismatch 0x82#8 0x83#8)) := by decide

theorem witness_CompactUnobservable_effect : (scanned Config.default packetA).created = true := rfl

/-- A session before and after COMPACT. -/
theorem witness_CompactUnobservable :
    let s := scanned Config.default (packetA ++ [0xFF#8])
    let t := holding Config.default [0xFF#8]
    s.Inv ∧ t.Inv ∧ s.SameView t ∧ s.created = true :=
  ⟨scanned_inv (by decide) (by decide) (by decide), holding_inv (by decide) (by decide) (by decide),
    ⟨⟨by decide, by decide⟩, by decide⟩, rfl⟩

theorem witness_ChunkInvariance_needMore :
    (holding Config.default []).Inv ∧ (holding Config.default []).created = true ∧
      (∀ n, (holding Config.default []).session.cfg.rxCap ≠ .bytes n) ∧ ([[0xFF#8], [], [0xFF#8, 0x82#8]] : List (List Byte)) ≠ [] ∧
      ∃ t, exec (.feed [0xFF#8, 0xFF#8, 0x82#8]) (holding Config.default []) = .next t ∧ t.results = [.needMore] :=
  ⟨holding_inv (by decide) (by decide) (by decide), rfl, fun _ => by simp [holding, Config.default], by decide,
    _, rfl, by decide⟩

theorem witness_ChunkInvariance_frame :
    (holding Config.default []).Inv ∧ (holding Config.default []).created = true ∧
      (∀ n, (holding Config.default []).session.cfg.rxCap ≠ .bytes n) ∧
      [[0xFF#8, 0xFF#8], [0x02#8, 0x80#8, 0x00#8, 0x00#8], [0x82#8, 0xFF#8]].flatten = packetA ++ [0xFF#8] ∧
      ∃ t, exec (.feed (packetA ++ [0xFF#8])) (holding Config.default []) = .next t ∧ t.results = [.frame parsedA] :=
  ⟨holding_inv (by decide) (by decide) (by decide), rfl, fun _ => by simp [holding, Config.default], by decide,
    _, rfl, by decide⟩
theorem witness_ChunkInvariance_violation :
    [[0xFF#8], [0xFF#8, 0x01#8], [0x02#8]].flatten = [0xFF#8, 0xFF#8, 0x01#8, 0x02#8] ∧
      ∃ t, exec (.feed [0xFF#8, 0xFF#8, 0x01#8, 0x02#8]) (holding Config.default []) = .next t ∧
        t.results = [.violation (.invalidDelimiter 0x01#8)] := ⟨by decide, _, rfl, by decide⟩

theorem witness_RoundTrip :
    State.reset = holding Config.default [] ∧ (holding Config.default []).Inv ∧
      exec (.encode frameA 2) State.reset = .next { State.reset with results := [.bytes packetA] } ∧
      exec (.encodeAddress frameA.address) State.reset = .next { State.reset with results := [.bytes [0x80#8]] } ∧
      State.reset.session.cfg.minPre ≤ 2 ∧ 2 ≤ State.reset.session.cfg.maxPre ∧
      frameA.payload.length ≤ State.reset.session.cfg.maxBc.toNat ∧ State.reset.session.st = .preamble ∧
      State.reset.session.pcount = 0 ∧ State.reset.session.avail = [] ∧ State.reset.session.cfg.rxCap = .inf :=
  ⟨rfl, holding_inv (by decide) (by decide) (by decide), rfl, rfl, by decide, by decide, by decide, rfl, rfl, rfl, rfl⟩
theorem witness_RoundTrip_prefix :
    packetA = [0xFF#8, 0xFF#8, 0x02#8, 0x80#8, 0x00#8, 0x00#8] ++ [0x82#8] ∧ [0x82#8] ≠ [] := by decide

theorem witness_CorruptedChecksumRejected :
    packetA = packetA.dropLast ++ [0x82#8] ∧ 0x83#8 ≠ 0x82#8 ∧ (holding Config.default []).Inv ∧
      exec (.encode frameA 2) (holding Config.default []) =
        .next { holding Config.default [] with results := [.bytes (packetA.dropLast ++ [0x82#8])] } ∧
      (holding Config.default []).session.cfg.rxCap = .inf :=
  ⟨by decide, by decide, holding_inv (by decide) (by decide) (by decide), rfl, rfl⟩

theorem witness_PreambleBounds :
    (holding cfgMaxPre2 []).Inv ∧ (holding cfgMaxPre2 []).created = true ∧ 0x01#8 ≠ 0xFF#8 ∧
      (holding cfgMaxPre2 []).session.st = .preamble ∧ (holding cfgMaxPre2 []).session.pcount = 0 ∧
      (holding cfgMaxPre2 []).session.avail = [] ∧ (holding cfgMaxPre2 []).session.cfg.rxCap = .inf :=
  ⟨holding_inv (by decide) (by decide) (by decide), rfl, by decide, rfl, rfl, rfl, rfl⟩
theorem witness_PreambleBounds_lengths :
    1 < cfgMaxPre2.minPre ∧ cfgMaxPre2.maxPre < 3 ∧ cfgMaxPre2.minPre ≤ 2 ∧ 2 ≤ cfgMaxPre2.maxPre ∧
      ¬ (0x01#8 = 0x02#8 ∨ 0x01#8 = 0x06#8 ∨ 0x01#8 = 0x82#8 ∨ 0x01#8 = 0x86#8) := by decide

theorem witness_LongPayloadRejected :
    let f : FrameDesc := { frameA with payload := List.replicate 5 0x00#8 }
    let s := holding cfgMaxBc4 []
    s.Inv ∧ s.created = true ∧ (∃ pk, exec (.encode f 2) s = .next { s with results := s.results ++ [.bytes pk] }) ∧
      s.session.cfg.minPre ≤ 2 ∧ 2 ≤ s.session.cfg.maxPre ∧ s.session.cfg.maxBc.toNat < f.payload.length ∧
      s.session.st = .preamble ∧ s.session.pcount = 0 ∧ s.session.avail = [] ∧ s.session.cfg.rxCap = .inf :=
  ⟨holding_inv (by decide) (by decide) (by decide), rfl, ⟨_, rfl⟩, by decide, by decide, by decide, rfl, rfl, rfl, rfl⟩

theorem witness_StepKeepsInvariant :
    (holding Config.default packetA).Inv ∧
      ∃ t, step ((holding Config.default packetA).withFetchWord 8 0x11) = .next t :=
  ⟨holding_inv (by decide) (by decide) (by decide), _, rfl⟩

theorem witness_StepNeverStops : ((holding Config.default packetA).withFetchWord 8 0x11).Inv :=
  holding_inv (by decide) (by decide) (by decide)

theorem witness_OneResultOrRefusal : ∃ t, exec .compact State.noSession = .next t := ⟨_, rfl⟩

/-- A created session that bears the mark. -/
def marked : State :=
  { State.reset with session := { State.reset.session with refused := true } }

theorem witness_RefusedMarkStays :
    marked.created = true ∧ marked.session.refused = true ∧ ∃ t, step (marked.withFetchWord 8 0x00) = .next t :=
  ⟨rfl, rfl, _, rfl⟩

theorem witness_MarkSetOnlyByRefusal :
    ∃ t, step (State.reset.withFetchWord 8 0x15) = .next t ∧ State.reset.session.refused = false ∧
      t.session.refused = true := ⟨_, rfl, rfl, rfl⟩

theorem witness_CursorMovesForward :
    (holding Config.default []).Inv ∧ (∀ c, Instr.feed packetA ≠ .reset c) ∧ Instr.feed packetA ≠ .compact ∧
      ∃ t, exec (.feed packetA) (holding Config.default []) = .next t :=
  ⟨holding_inv (by decide) (by decide) (by decide), fun _ => by simp, by decide, _, rfl⟩

theorem witness_ObservationOfRun_marked : marked.session.refused = true := rfl
theorem witness_ObservationOfRun_run :
    ∃ t, execAll [.wants, .compact] State.reset = .next t ∧ State.reset.session.refused = false ∧
      State.reset.created = true ∧ t.session.refused = false := ⟨_, rfl, rfl, rfl, rfl⟩

theorem witness_NumericCodes : parseStateOfCode 6 = some .checksum ∧ 7 ≤ 7 := by decide

end Sys2Proof.Tests
end

section
/-! Proofs of the numeric codes (10_state.md R14, R21, 60_exceptions.md R98, R100). -/

namespace Sys2Proof.Machine

open Sys2Proof

@[simp] theorem parseStateOfCode_code (st : ParseState) : parseStateOfCode st.code = some st := by
  cases st <;> rfl

theorem parseStateOfCode_eq_none_of_le {n : Nat} (h : 7 ≤ n) : parseStateOfCode n = none := by
  obtain ⟨k, rfl⟩ := Nat.exists_eq_add_of_le' h
  rfl

/-- The table of codes has no gap: with `parseStateOfCode_code`, reading a code inverts `ParseState.code`. -/
theorem exists_code_eq_of_lt {n : Nat} (h : n < 7) : ∃ st : ParseState, st.code = n := by
  interval_cases n
  exacts [⟨.preamble, rfl⟩, ⟨.frameType, rfl⟩, ⟨.address, rfl⟩, ⟨.command, rfl⟩, ⟨.byteCount, rfl⟩, ⟨.data, rfl⟩,
    ⟨.checksum, rfl⟩]

theorem code_eq_of_parseStateOfCode {n : Nat} {st : ParseState} (h : parseStateOfCode n = some st) :
    st.code = n := by
  obtain hlt | hge := Nat.lt_or_ge n 7
  · obtain ⟨st', rfl⟩ := exists_code_eq_of_lt hlt
    have hst : st' = st := by simpa using h
    rw [hst]
  · simp [parseStateOfCode_eq_none_of_le hge] at h

theorem map_configRegister (c : Config) : [0, 1, 2, 3, 4, 5].map (configRegister c) =
    [some (.nat c.minPre), some (.nat c.maxPre), some (.byte c.maxBc), some (.capacity c.rxCap),
      some (.bit (bcastCode c.bcast)), none] := rfl

/-- Settles O56: reading a code inverts `ParseState.code` below 7 and fails from 7 on; the other codes are their
tables. -/
theorem numericCodes : Obligations.NumericCodes := by
  refine ⟨parseStateOfCode_code, fun _ _ => code_eq_of_parseStateOfCode, fun _ => parseStateOfCode_eq_none_of_le,
    rfl, fun _ _ _ _ _ _ _ => ⟨rfl, rfl⟩, fun c => ?_⟩
  rw [map_configRegister]
  cases c.bcast <;> rfl

end Sys2Proof.Machine
end

section
/-! Proofs of the pseudo-operations and of the returned frame (30_encoding.md R60, R62). -/

namespace Sys2Proof.Machine

open Sys2Proof

/-! ## Runs -/

@[simp] theorem execAll_nil (s : State) : execAll [] s = .next s := rfl

theorem execAll_cons_of_next {i : Instr} {s t : State} (rest : List Instr) (h : exec i s = .next t) :
    execAll (i :: rest) s = execAll rest t := by
  simp [execAll, h]

/-- Settles O7: each operation of an expansion that answers a next state hands it to the rest of the expansion. -/
theorem pseudoOperationsExpand : Obligations.PseudoOperationsExpand := by
  refine ⟨fun s t hadv u hnext => ?_, fun s t hadv => ?_⟩
  · calc execAll (expand .resync) s
        = execAll [.nextFrame] t := execAll_cons_of_next _ hadv
      _ = execAll [] u := execAll_cons_of_next _ hnext
      _ = .next u := execAll_nil u
  · exact execAll_cons_of_next [] hadv

/-! ## The operations that return a scan's outcome -/

/-- NEXT_FRAME is refused or returns the outcome of a scan (42_stream_parser.md R91). -/
theorem exec_nextFrame_next_cases {s t : State} (h : exec .nextFrame s = .next t) :
    t = s.refuse .noSession ∨ s.endScan s.session.scan = .next t := by
  simp only [exec, execNextFrame] at h
  split at h
  · exact .inl (by simpa using h.symm)
  · exact .inr h

/-- FEED is refused or returns the outcome of a scan with the bytes appended, which `RX_CAP` then admits
(42_stream_parser.md R90). -/
theorem exec_feed_next_cases {bytes : List Byte} {s t : State} (h : exec (.feed bytes) s = .next t) :
    (∃ r, t = s.refuse r) ∨
    (capAdmits s.session.cfg.rxCap (s.session.avail.length + bytes.length) = true ∧
      s.endScan (s.session.append bytes).scan = .next t) := by
  simp only [exec, execFeed] at h
  split at h
  · exact .inl ⟨_, by simpa using h.symm⟩
  split at h
  · exact .inl ⟨_, by simpa using h.symm⟩
  · next hcap => exact .inr ⟨by simpa using hcap, h⟩

/-- A result that `endScan` returns as a frame is the scan's frame. -/
theorem State.outcome_eq_frame_of_endScan {s t : State} {r : Session × ScanOutcome} {p : ParsedFrame}
    (h : s.endScan r = .next t) (hres : t.results = s.results ++ [.frame p]) : r.2 = .frame p := by
  obtain ⟨res, rfl, hout⟩ := State.endScan_next h
  obtain rfl : res = .frame p := by simpa using hres
  cases ho : r.2 with
  | frame q => simpa [ho, eq_comm] using hout
  | needMore | violation | emptyField => simp [ho] at hout

/-- A frame NEXT_FRAME or FEED returns is the frame of a scan, from a session that meets the invariant and has the
same configuration. -/
theorem scan_of_frame_returned {i : Instr} {s t : State} {p : ParsedFrame} (hinv : s.Inv)
    (hi : i = .nextFrame ∨ ∃ bytes, i = .feed bytes) (h : exec i s = .next t)
    (hres : t.results = s.results ++ [.frame p]) :
    ∃ u : Session, u.Inv ∧ u.cfg = s.session.cfg ∧ u.scan.2 = .frame p := by
  obtain rfl | ⟨bytes, rfl⟩ := hi
  · obtain rfl | hscan := exec_nextFrame_next_cases h
    · simp at hres
    · exact ⟨s.session, hinv, rfl, State.outcome_eq_frame_of_endScan hscan hres⟩
  · obtain ⟨r, rfl⟩ | ⟨hcap, hscan⟩ := exec_feed_next_cases h
    · simp at hres
    · exact ⟨s.session.append bytes, Session.Inv_append hinv bytes hcap, rfl,
        State.outcome_eq_frame_of_endScan hscan hres⟩

/-! ## The returned frame -/

/-- Bit 7 of the frame type selects the address width (30_encoding.md R49). -/
theorem widthOf_bytes (b : Byte) : (widthOf b).bytes = if b.getLsbD 7 then 5 else 1 := by
  unfold widthOf
  split <;> rfl

/-- Settles O35: a returned frame is the frame of a scan from a session that meets the invariant, and such a scan
gives only valid frames. -/
theorem returnedFrameIsValid : Obligations.ReturnedFrameIsValid := by
  intro i s t p hinv hi h hres
  obtain ⟨u, huinv, hcfg, hscan⟩ := scan_of_frame_returned hinv hi h hres
  obtain ⟨-, -, hvalid⟩ := Session.scan_inv u huinv
  obtain ⟨hdelim, haddr, hcount, hpayload, hsum⟩ := hvalid p hscan
  rw [hcfg] at hcount
  exact ⟨(isDelimiter_iff _).mp hdelim, haddr.trans (widthOf_bytes _), hpayload, hcount, hsum⟩

end Sys2Proof.Machine
end

section
/-! Proofs of the checksum and its laws (40_checksum_address.md R63, R64). -/

namespace Sys2Proof.Machine

open Sys2Proof

/-- Settles O14: CHECKSUM returns `xorfold`, which is the fold written out. -/
theorem checksumFoldsBytes : Obligations.ChecksumFoldsBytes := by
  intro bytes s
  rfl

theorem xorfold_append (xs ys : List Byte) : xorfold (xs ++ ys) = xorfold xs ^^^ xorfold ys := by
  rw [xorfold, List.foldl_append, foldl_xor_eq]
  rfl

theorem xorfold_perm {xs ys : List Byte} (h : xs.Perm ys) : xorfold xs = xorfold ys := by
  induction h with
  | nil => rfl
  | cons x _ ih => rw [xorfold_cons, xorfold_cons, ih]
  | swap x y zs => simp only [xorfold_cons, ← BitVec.xor_assoc, BitVec.xor_comm x y]
  | trans _ _ ih₁ ih₂ => exact ih₁.trans ih₂

/-- XOR with `2 ^ k` flips bit `k` of a byte and no other. -/
theorem getLsbD_xor_twoPow (b : Byte) (k : Nat) {m : Nat} (hm : m < 8) :
    (b ^^^ BitVec.twoPow 8 k).getLsbD m = if m = k then !b.getLsbD m else b.getLsbD m := by
  obtain rfl | hne := eq_or_ne m k
  · simp [hm]
  · simp [hne, hne.symm]

/-- Changing two different bytes by the same `d` leaves the fold as it was. -/
theorem xorfold_set_set (xs : List Byte) {i j : Nat} (hi : i < xs.length) (hj : j < xs.length) (hij : i ≠ j)
    (d : Byte) : xorfold ((xs.set i (xs[i] ^^^ d)).set j (xs[j] ^^^ d)) = xorfold xs := by
  have hget : (xs.set i (xs[i] ^^^ d))[j]'(by simpa using hj) = xs[j] := List.getElem_set_ne hij _
  calc xorfold ((xs.set i (xs[i] ^^^ d)).set j (xs[j] ^^^ d))
      = xorfold (xs.set i (xs[i] ^^^ d)) ^^^ d := by rw [← hget, xorfold_set]
    _ = xorfold xs ^^^ d ^^^ d := by rw [xorfold_set]
    _ = xorfold xs := by rw [BitVec.xor_assoc, BitVec.xor_self, BitVec.xor_zero]

/-- Settles O15: the fold turns append into XOR, and a byte changed by `d` changes it by `d` (`xorfold_set`). -/
theorem checksumLaws : Obligations.ChecksumLaws := by
  refine ⟨fun a b c => ⟨BitVec.xor_assoc a b c, BitVec.xor_comm a b, BitVec.xor_zero, BitVec.xor_self⟩,
    xorfold_append, fun _ _ => xorfold_perm, fun xs j k m hj _ hm => ?_,
    fun xs i j k hi hj _ hij => xorfold_set_set xs hi hj hij _⟩
  rw [xorfold_set, getLsbD_xor_twoPow _ _ hm]

end Sys2Proof.Machine
end

section
/-! Proofs of the address encoder (40_checksum_address.md R65 to R68). -/

namespace Sys2Proof.Machine

open Sys2Proof

/-! ## What ENCODE_ADDRESS answers -/

theorem exec_encodeAddress_of_wellFormed {a : AddressDesc} (s : State) (h : a.WellFormed) :
    exec (.encodeAddress a) s = .next (s.deliver (.bytes (wireBytes s.session.cfg.bcast a))) := by
  simp only [exec, execEncodeAddress, addrBytes_ok _ h, encoderResult]

theorem exec_encodeAddress_of_rangeError {a : AddressDesc} {e : ConstructionError} (s : State)
    (h : addressRangeError a = some e) :
    exec (.encodeAddress a) s = .next (s.deliver (.constructionError e)) := by
  simp only [exec, execEncodeAddress, addrBytes, h, encoderResult]

/-- Settles O18: `addressRangeError` makes the checks in the order of R68. -/
theorem addressRangeChecked : Obligations.AddressRangeChecked := by
  refine ⟨fun pm slave s h => exec_encodeAddress_of_rangeError s ?_, fun pm burst mfg dt id bcast s =>
    ⟨fun hm => exec_encodeAddress_of_rangeError s ?_, fun hm hd => exec_encodeAddress_of_rangeError s ?_,
      fun hm hd hi => exec_encodeAddress_of_rangeError s ?_⟩⟩
  · simp [addressRangeError, h]
  · simp [addressRangeError, hm]
  · simp [addressRangeError, hm.not_gt, hd]
  · simp [addressRangeError, hm.not_gt, hd.not_gt, hi]

/-! ## The first byte -/

/-- The first byte of an address (30_encoding.md R50, R51): two flags above six bits of a number. -/
def headByte (primaryMaster slaveBurst : Bool) (n : Nat) : Byte :=
  (if primaryMaster then 0x80#8 else 0x00#8) ||| (if slaveBurst then 0x40#8 else 0x00#8) |||
    (BitVec.ofNat 6 n).setWidth 8

theorem headByte_bit7 (pm burst : Bool) (n : Nat) : (headByte pm burst n).getLsbD 7 = pm := by
  cases pm <;> cases burst <;> simp [headByte]

theorem headByte_bit6 (pm burst : Bool) (n : Nat) : (headByte pm burst n).getLsbD 6 = burst := by
  cases pm <;> cases burst <;> simp [headByte]

theorem headByte_setWidth_six (pm burst : Bool) (n : Nat) : (headByte pm burst n).setWidth 6 = BitVec.ofNat 6 n := by
  have hflags : ((if pm then 0x80#8 else 0x00#8) ||| (if burst then 0x40#8 else 0x00#8)).setWidth 6 = 0#6 := by
    cases pm <;> cases burst <;> rfl
  rw [headByte, BitVec.setWidth_or, hflags, BitVec.zero_or, BitVec.setWidth_setWidth_of_le _ (by decide),
    BitVec.setWidth_eq]

theorem headByte_mod_64 (pm burst : Bool) {n : Nat} (h : n ≤ 63) : (headByte pm burst n).toNat % 64 = n := by
  have hlow : (headByte pm burst n).toNat % 2 ^ 6 = n % 2 ^ 6 := by
    simpa using congrArg BitVec.toNat (headByte_setWidth_six pm burst n)
  omega

/-! ## The bytes of each form -/

theorem shortBytes_eq (pm : Bool) (slave : Nat) : shortBytes pm slave = [headByte pm false slave] := by
  simp [shortBytes, headByte]

theorem longBytes_addressed (bd : BcastDevType) (pm burst : Bool) (mfg dt id : Nat) :
    longBytes bd pm burst mfg dt id false =
      [headByte pm burst mfg, BitVec.ofNat 8 dt, (BitVec.ofNat 24 id).extractLsb' 16 8,
        (BitVec.ofNat 24 id).extractLsb' 8 8, (BitVec.ofNat 24 id).extractLsb' 0 8] := rfl

theorem longBytes_broadcast (bd : BcastDevType) (pm burst : Bool) (mfg dt id : Nat) :
    longBytes bd pm burst mfg dt id true =
      [headByte pm burst mfg, if bd = .zero then 0#8 else BitVec.ofNat 8 dt, 0#8, 0#8, 0#8] := by
  cases bd <;> rfl

/-- The bytes of a number below `2 ^ 24`, most significant first, spell that number (20_memory.md R34). -/
theorem bigEndian_toNat {id : Nat} (h : id ≤ 16777215) :
    ((BitVec.ofNat 24 id).extractLsb' 16 8).toNat * 65536 + ((BitVec.ofNat 24 id).extractLsb' 8 8).toNat * 256 +
      ((BitVec.ofNat 24 id).extractLsb' 0 8).toNat = id := by
  simp only [BitVec.extractLsb'_toNat, BitVec.toNat_ofNat, Nat.shiftRight_eq_div_pow]
  omega

/-! ## The two forms -/

/-- Settles O16: the one byte is `headByte` with the burst flag clear. -/
theorem shortAddressEncoded : Obligations.ShortAddressEncoded := by
  intro pm slave s h
  refine ⟨headByte pm false slave, ?_, headByte_bit7 .., headByte_bit6 .., headByte_mod_64 _ _ h⟩
  rw [exec_encodeAddress_of_wellFormed s h, wireBytes, shortBytes_eq]
  rfl

/-- Settles O17: `headByte`, the device type and the identification number, with zeros for a broadcast. -/
theorem longAddressEncoded : Obligations.LongAddressEncoded := by
  intro pm burst mfg dt id bcast s hm hd hi
  have hdt : (BitVec.ofNat 8 dt).toNat = dt := (BitVec.toNat_ofNat dt 8).trans (Nat.mod_eq_of_lt (by omega))
  have hexec := exec_encodeAddress_of_wellFormed (a := .long pm burst mfg dt id bcast) s ⟨hm, hd, hi⟩
  cases bcast with
  | false =>
    rw [wireBytes, longBytes_addressed] at hexec
    exact ⟨_, _, _, _, _, hexec, headByte_bit7 .., headByte_bit6 .., headByte_mod_64 _ _ hm, by simpa using hdt,
      by simpa using bigEndian_toNat hi⟩
  | true =>
    rw [wireBytes, longBytes_broadcast] at hexec
    refine ⟨_, _, _, _, _, hexec, headByte_bit7 .., headByte_bit6 .., headByte_mod_64 _ _ hm, ?_, rfl⟩
    cases s.session.cfg.bcast <;> simp [hdt]

end Sys2Proof.Machine
end

section
/-! Proofs of the frame encoder (41_frame_encoder.md R70 to R79). -/

namespace Sys2Proof.Machine

open Sys2Proof

/-! ## What ENCODE answers -/

theorem exec_encode_of_wellFormed {f : FrameDesc} {npre : Nat} (s : State) (h : f.WellFormed) (hn : 2 ≤ npre) :
    exec (.encode f npre) s = .next (s.deliver (.bytes (assemblePacket npre (BitVec.ofNat 8 f.frameType)
      (wireBytes s.session.cfg.bcast f.address) (BitVec.ofNat 8 f.command) f.payload))) := by
  simp only [exec, execEncode, encodePacket_ok _ h hn, encoderResult]

theorem exec_encode_of_error {f : FrameDesc} {npre : Nat} {e : ConstructionError} {s : State}
    (h : encodePacket s.session.cfg.bcast f npre = .error e) :
    exec (.encode f npre) s = .next (s.deliver (.constructionError e)) := by
  simp only [exec, execEncode, h, encoderResult]

/-! ## The packet -/

theorem bodyBytes_eq (ft cmd n : Byte) (a p : List Byte) : bodyBytes ft a cmd n p = ft :: a ++ cmd :: n :: p := by
  simp [bodyBytes]

/-- Settles O19: the packet is `assemblePacket` of the bytes ENCODE_ADDRESS returns. -/
theorem encodeAssemblesPacket : Obligations.EncodeAssemblesPacket := by
  intro f npre s hf hn
  have henc := exec_encode_of_wellFormed s hf hn
  obtain ⟨-, ha, -, -⟩ := hf
  rw [assemblePacket, bodyBytes_eq] at henc
  exact ⟨wireBytes s.session.cfg.bcast f.address, exec_encodeAddress_of_wellFormed s ha, henc⟩

/-! ## The checks, one by one (41_frame_encoder.md R72) -/

section

variable (bd : BcastDevType) {f : FrameDesc} {npre : Nat}

theorem encodePacket_preambleTooShort (hn : npre < 2) : encodePacket bd f npre = .error (.preambleTooShort npre) := by
  simp [encodePacket, hn]

theorem encodePacket_invalidFrameType (hn : 2 ≤ npre) (hf : isFrameType f.frameType = false) :
    encodePacket bd f npre = .error (.invalidFrameType f.frameType) := by
  simp [encodePacket, hn.not_gt, hf]

theorem encodePacket_addressWidthMismatch (hn : 2 ≤ npre) (hf : isFrameType f.frameType = true)
    (hw : ¬ f.WidthConsistent) :
    encodePacket bd f npre = .error (.addressWidthMismatch f.frameType (descWidth f.address)) := by
  have hne : widthOfOperand f.frameType ≠ descWidth f.address :=
    fun heq => hw ((widthConsistent_iff f).mpr ⟨hf, heq⟩)
  simp [encodePacket, hn.not_gt, hf, hne]

theorem encodePacket_addressError (hn : 2 ≤ npre) (hw : f.WidthConsistent) {e : ConstructionError}
    (he : addrBytes bd f.address = .error e) : encodePacket bd f npre = .error e := by
  obtain ⟨hf, hd⟩ := (widthConsistent_iff f).mp hw
  simp [encodePacket, hn.not_gt, hf, hd, he]

theorem encodePacket_commandOutOfRange (hn : 2 ≤ npre) (hw : f.WidthConsistent) (ha : f.address.WellFormed)
    (hc : 255 < f.command) : encodePacket bd f npre = .error (.fieldOutOfRange .command f.command) := by
  obtain ⟨hf, hd⟩ := (widthConsistent_iff f).mp hw
  simp [encodePacket, hn.not_gt, hf, hd, addrBytes_ok bd ha, hc]

theorem encodePacket_payloadTooLong (hn : 2 ≤ npre) (hw : f.WidthConsistent) (ha : f.address.WellFormed)
    (hc : f.command ≤ 255) (hp : 255 < f.payload.length) :
    encodePacket bd f npre = .error (.payloadTooLong f.payload.length) := by
  obtain ⟨hf, hd⟩ := (widthConsistent_iff f).mp hw
  simp [encodePacket, hn.not_gt, hf, hd, addrBytes_ok bd ha, hc.not_gt, hp]

theorem encodePacket_error_of_not_wellFormed (h : ¬ (f.WellFormed ∧ 2 ≤ npre)) :
    ∃ e, encodePacket bd f npre = .error e := by
  cases hpk : encodePacket bd f npre with
  | error e => exact ⟨e, rfl⟩
  | ok pk => exact absurd (wellFormed_of_encodePacket hpk) h

end

/-- An error that ENCODE_ADDRESS returns is the one the address bytes raise. -/
theorem addrBytes_error_of_exec_encodeAddress {a : AddressDesc} {e : ConstructionError} {s : State}
    (h : exec (.encodeAddress a) s = .next { s with results := s.results ++ [.constructionError e] }) :
    addrBytes s.session.cfg.bcast a = .error e := by
  have hres : encoderResult (addrBytes s.session.cfg.bcast a) = .constructionError e := by
    simpa [exec, execEncodeAddress, State.deliver] using h
  cases hab : addrBytes s.session.cfg.bcast a with
  | error e' => simpa [hab, encoderResult] using hres
  | ok bs => simp [hab, encoderResult] at hres

/-- Settles O20: `encodePacket` makes the checks in the order of R72. -/
theorem encodeCheckOrder : Obligations.EncodeCheckOrder := by
  intro f npre s
  refine ⟨fun hn => ?_, fun hn hf => ?_, fun hn hf hw => ?_, fun hn hw e he => ?_, fun hn hw ha hc => ?_,
    fun hn hw ha hc hp => ?_⟩
  · exact exec_encode_of_error (encodePacket_preambleTooShort _ hn)
  · rw [← isFrameType_iff, Bool.not_eq_true] at hf
    exact exec_encode_of_error (encodePacket_invalidFrameType _ hn hf)
  · exact exec_encode_of_error (encodePacket_addressWidthMismatch _ hn ((isFrameType_iff _).mpr hf) hw)
  · exact exec_encode_of_error (encodePacket_addressError _ hn hw (addrBytes_error_of_exec_encodeAddress he))
  · exact exec_encode_of_error (encodePacket_commandOutOfRange _ hn hw ha hc)
  · exact exec_encode_of_error (encodePacket_payloadTooLong _ hn hw ha hc hp)

/-! ## One result, whole or an error -/

/-- Settles O21: an accepted descriptor gives the packet of O19, any other an error. -/
theorem encodeAtomic : Obligations.EncodeAtomic := by
  intro f npre s
  by_cases h : f.WellFormed ∧ 2 ≤ npre
  · obtain ⟨a, haddr, henc⟩ := encodeAssemblesPacket f npre s h.1 h.2
    exact ⟨_, henc, iff_of_true ⟨_, rfl⟩ h, iff_of_false (by simp) (not_not_intro h),
      fun bs hbs => ⟨a, haddr, (Result.bytes.inj hbs).symm⟩⟩
  · obtain ⟨e, he⟩ := encodePacket_error_of_not_wellFormed s.session.cfg.bcast h
    exact ⟨_, exec_encode_of_error he, iff_of_false (by simp) h, iff_of_true ⟨e, rfl⟩ h, by simp⟩

/-- Settles O23: the result of each operation, with `BCAST_DEVTYPE` as its only input from the state. -/
theorem encoderStateless : Obligations.EncoderStateless := by
  intro i hi b
  cases i with
  | checksum bytes => exact ⟨.byte (xorfold bytes), fun _ _ => rfl⟩
  | encodeAddress a => exact ⟨encoderResult (addrBytes b a), fun _ hb => hb ▸ rfl⟩
  | encode f npre => exact ⟨encoderResult (encodePacket b f npre), fun _ hb => hb ▸ rfl⟩
  | reset | feed | nextFrame | wants | advance | compact => simp [onSession] at hi

end Sys2Proof.Machine
end

section
/-! Proofs of the scan's rows and of ADVANCE (42_stream_parser.md R82 to R88, R93). -/

namespace Sys2Proof.Machine

open Sys2Proof

/-- Settles O24: each clause is a PREAMBLE row of the table. -/
theorem preambleRule : Obligations.PreambleRule := by
  refine fun s hst => ⟨Session.scan_preamble_empty hst, fun rest hav => ⟨?_, ?_⟩, fun b rest hav hb => ⟨?_, ?_⟩⟩
  · exact Session.scan_preamble_tooLong hst hav rfl
  · exact Session.scan_preamble_count hst hav rfl
  · exact Session.scan_preamble_insufficient hst hav hb
  · exact fun hmin => Session.scan_preamble_end hst hav hb hmin.not_gt

/-- Settles O25: the invariant's waiting byte, then the FRAME_TYPE rows of the table. -/
theorem frameTypeRule : Obligations.FrameTypeRule := by
  refine fun s hst => ⟨fun hinv => hinv.delimiterWaits hst, Session.scan_frameType_empty hst,
    fun b rest hav => ⟨fun hb => ?_, fun hb => ?_⟩⟩
  · rw [← isDelimiter_iff, Bool.not_eq_true] at hb
    exact Session.scan_frameType_invalid hst hav hb
  · exact Session.scan_frameType_accept hst hav ((isDelimiter_iff b).mpr hb)

/-- Settles O26: the ADDRESS rows of the table, at either width. -/
theorem addressRule : Obligations.AddressRule := by
  intro s w n hst hw hn
  obtain rfl : n = w.bytes := by
    obtain ⟨rfl, rfl⟩ | ⟨rfl, rfl⟩ := hn <;> rfl
  exact ⟨Session.scan_address_short hst hw, fun hle => Session.scan_address_accept hst hw hle.not_gt⟩

/-- Settles O27: the COMMAND rows of the table. -/
theorem commandRule : Obligations.CommandRule := fun _ hst =>
  ⟨Session.scan_command_empty hst, fun _ _ hav => Session.scan_command_accept hst hav⟩

/-- Settles O28: the BYTE_COUNT rows of the table; the order of bytes is that of naturals. -/
theorem byteCountRule : Obligations.ByteCountRule := by
  refine fun s hst => ⟨Session.scan_byteCount_empty hst, fun b rest hav => ⟨?_, fun hle => ?_⟩⟩
  · exact Session.scan_byteCount_tooLarge hst hav
  · exact Session.scan_byteCount_accept hst hav hle.not_gt

/-- Settles O29: the DATA rows of the table. -/
theorem dataRule : Obligations.DataRule := fun _ _ hst hbc =>
  ⟨Session.scan_data_short hst hbc, fun hle => Session.scan_data_accept hst hbc hle.not_gt⟩

/-- Settles O30: the fields hold values, so CHECKSUM reads the frame of them and compares its checksum. -/
theorem checksumRule : Obligations.ChecksumRule := by
  intro s ft c n a d hst hft haddr hcmd hbc hdata computed
  have hread (r : Byte) : s.frameRead r = .ok ⟨ft, a, c, n, d, r⟩ := by
    simp only [Session.frameRead, hft, haddr, hcmd, hbc, hdata]
  exact ⟨Session.scan_checksum_empty hst, fun r rest hav =>
    ⟨Session.scan_checksum_mismatch hst hav (hread r), Session.scan_checksum_match hst hav (hread r)⟩⟩

/-- Settles O40: on a created session ADVANCE is `Session.discard`. -/
theorem advanceDiscardsAndResets : Obligations.AdvanceDiscardsAndResets := by
  intro n s hc
  simp only [exec, execAdvance, hc, Bool.true_eq_false, if_false]
  rfl

end Sys2Proof.Machine
end

section
/-! Proofs of NEXT_FRAME, of the persistence of violations and of WANTS (42_stream_parser.md R91, R92, R96). -/

namespace Sys2Proof.Machine

open Sys2Proof

/-! ## What the operations that scan return -/

/-- The result FEED and NEXT_FRAME return for a scan's outcome (42_stream_parser.md R90, R91). -/
def ScanOutcome.Returns (o : ScanOutcome) (r : Result) : Prop :=
  match o with
  | .frame p => r = .frame p
  | .needMore _ => r = .needMore
  | .violation v => r = .violation v
  | .emptyField _ => False

@[simp] theorem ScanOutcome.returns_frame_iff {o : ScanOutcome} {p : ParsedFrame} :
    o.Returns (.frame p) ↔ o = .frame p := by
  cases o <;> simp [Returns, eq_comm]

@[simp] theorem ScanOutcome.returns_needMore_iff {o : ScanOutcome} : o.Returns .needMore ↔ ∃ k, o = .needMore k := by
  cases o <;> simp [Returns]

@[simp] theorem ScanOutcome.returns_violation_iff {o : ScanOutcome} {v : Violation} :
    o.Returns (.violation v) ↔ o = .violation v := by
  cases o <;> simp [Returns, eq_comm]

/-- The outcome of a scan from a session that meets the invariant is returned, for it is no empty field. -/
theorem Session.Inv.exists_returns {s : Session} (h : s.Inv) : ∃ r, s.scan.2.Returns r := by
  obtain ⟨-, hne, -⟩ := s.scan_inv h
  cases ho : s.scan.2 with
  | emptyField f => exact absurd ho (hne f)
  | frame | needMore | violation => exact ⟨_, rfl⟩

theorem State.endScan_of_returns (s : State) {r : Session × ScanOutcome} {res : Result} (h : r.2.Returns res) :
    s.endScan r = .next { s with session := r.1, results := s.results ++ [res] } := by
  obtain ⟨u, o⟩ := r
  cases o with
  | emptyField => exact h.elim
  | frame | needMore | violation => obtain rfl := h; rfl

theorem exec_nextFrame_of_returns {s : State} {res : Result} (hc : s.created = true)
    (h : s.session.scan.2.Returns res) :
    exec .nextFrame s = .next { s with session := s.session.scan.1, results := s.results ++ [res] } := by
  simpa [exec, execNextFrame, hc] using s.endScan_of_returns h

theorem exec_feed_of_returns {s : State} {bytes : List Byte} {res : Result} (hc : s.created = true)
    (hcap : capAdmits s.session.cfg.rxCap (s.session.avail.length + bytes.length) = true)
    (h : (s.session.append bytes).scan.2.Returns res) :
    exec (.feed bytes) s =
      .next { s with session := (s.session.append bytes).scan.1, results := s.results ++ [res] } :=
  (execFeed_eq bytes hc hcap).trans (s.endScan_of_returns h)

/-- What FEED or NEXT_FRAME returns is the outcome of a scan, and the session is the one that scan leaves. -/
theorem scan_of_result_returned {i : Instr} {s t : State} {r : Result}
    (hi : i = .nextFrame ∨ ∃ bytes, i = .feed bytes) (h : exec i s = .next t)
    (hres : t.results = s.results ++ [r]) : ∃ u : Session, t.session = u.scan.1 ∧ u.scan.2.Returns r := by
  have ofEndScan {u : Session} (hend : s.endScan u.scan = .next t) :
      ∃ u : Session, t.session = u.scan.1 ∧ u.scan.2.Returns r := by
    obtain ⟨res, rfl, hout⟩ := State.endScan_next hend
    obtain rfl : res = r := by simpa using hres
    exact ⟨u, rfl, hout⟩
  obtain rfl | ⟨bytes, rfl⟩ := hi
  · obtain rfl | hend := exec_nextFrame_next_cases h
    · simp at hres
    · exact ofEndScan hend
  · obtain ⟨_, rfl⟩ | ⟨-, hend⟩ := exec_feed_next_cases h
    · simp at hres
    · exact ofEndScan hend

/-- Settles O33: no empty field is read under the invariant, so the outcome is returned. -/
theorem nextFrameScans : Obligations.NextFrameScans := by
  intro s hinv hc
  obtain ⟨res, hres⟩ := Session.Inv.exists_returns hinv
  exact ⟨res, exec_nextFrame_of_returns hc hres, hres⟩

/-! ## A violation persists -/

theorem Session.PendingViolation.append {s : Session} {v : Violation} (h : s.PendingViolation v)
    (hcur : s.cur ≤ s.buf.length) (xs : List Byte) : (s.append xs).PendingViolation v := by
  have happ := s.scan_append xs hcur
  rw [h] at happ
  exact happ

/-- The count WANTS returns for the outcome of its look-ahead (42_stream_parser.md R92). -/
def ScanOutcome.hint : ScanOutcome → Nat
  | .frame _ => 0
  | .needMore k => k
  | .violation _ => 1
  | .emptyField _ => 0

theorem exec_wants_of_returns {s : State} {res : Result} (hc : s.created = true)
    (h : s.session.scan.2.Returns res) :
    exec .wants s = .next { s with results := s.results ++ [.count s.session.scan.2.hint] } := by
  rw [exec, execWants, if_neg (by simp [hc])]
  cases ho : s.session.scan.2 with
  | emptyField => rw [ho] at h; exact h.elim
  | frame | needMore | violation => rfl

/-- Settles O37: a scan settles in its violation, and bytes behind the offending one change nothing. -/
theorem violationPersists : Obligations.ViolationPersists := by
  refine ⟨fun i s t v hi hexec hres => ?_, fun s v hc hcur hpend => ?_⟩
  · obtain ⟨u, hsession, hout⟩ := scan_of_result_returned hi hexec hres
    have hviol : u.scan.2 = .violation v := by simpa using hout
    have hsettled := u.scan_settled (by simp [hviol])
    rw [hsession, Session.PendingViolation, hsettled, ← hviol]
  · have hout : s.session.scan.2.Returns (.violation v) := by rw [hpend]; rfl
    refine ⟨?_, ?_, fun bytes hcap => ?_⟩
    · rw [exec_nextFrame_of_returns hc hout, hpend]
    · rw [exec_wants_of_returns hc hout, hpend]; rfl
    · have happ := hpend.append hcur bytes
      refine ⟨happ, ?_⟩
      rw [exec_feed_of_returns hc ((capAdmits_iff _ _).mpr hcap) (res := .violation v) (by rw [happ]; rfl), happ]
      rfl

/-! ## A scan that waits for more bytes -/

/-- A session whose scan asks for `k` more bytes waits for one byte and holds none, or waits for the rest of a field
that is taken whole (42_stream_parser.md R82 to R88). -/
theorem Session.waiting_cases {s : Session} {k : Nat} (hinv : s.Inv) (h : s.scan = (s, .needMore k)) :
    (k = 1 ∧ s.avail = [] ∧ s.st ≠ .address ∧ s.st ≠ .data) ∨
    (∃ w, s.st = .address ∧ s.awidth = some w ∧ s.avail.length + k = w.bytes ∧ 1 ≤ k) ∨
    (∃ n, s.st = .data ∧ s.bc = some n ∧ s.avail.length + k = n.toNat ∧ 1 ≤ k) := by
  obtain ⟨hk, hlacks⟩ := s.scan_needMore hinv (k := k) (by rw [h])
  rw [h] at hlacks
  cases hst : s.st with
  | frameType => simp [hst] at hlacks
  | address =>
    obtain ⟨w, hw, hlen⟩ := by simpa only [hst] using hlacks
    exact .inr (.inl ⟨w, rfl, hw, hlen, hk⟩)
  | data =>
    obtain ⟨n, hn, hlen⟩ := by simpa only [hst] using hlacks
    exact .inr (.inr ⟨n, rfl, hn, hlen, hk⟩)
  | preamble | command | byteCount | checksum =>
    obtain ⟨rfl, hav⟩ := by simpa only [hst] using hlacks
    exact .inl ⟨rfl, hav, by simp, by simp⟩

theorem Session.avail_length_append (s : Session) (xs : List Byte) (hcur : s.cur ≤ s.buf.length) :
    (s.append xs).avail.length = s.avail.length + xs.length := by
  rw [s.avail_append xs hcur, List.length_append]

/-- The unconsumed bytes and the ones asked for make one field at most (70_reset_and_hazards.md R121). -/
theorem Session.waiting_fits {s : Session} {k : Nat} (hinv : s.Inv) (h : s.scan = (s, .needMore k)) :
    s.avail.length + k ≤ max 5 s.cfg.maxBc.toNat := by
  obtain ⟨rfl, hav, -, -⟩ | ⟨w, -, -, hlen, -⟩ | ⟨n, hst, hn, hlen, -⟩ := Session.waiting_cases hinv h
  · simp [hav]
  · have hw : w.bytes ≤ 5 := by cases w <;> decide
    omega
  · have hfields := hinv.fields
    simp only [FieldsValid, hst] at hfields
    obtain ⟨-, -, -, ⟨m, hm, hle⟩, -⟩ := hfields
    obtain rfl : n = m := Option.some.inj (hn.symm.trans hm)
    have hle : n.toNat ≤ s.cfg.maxBc.toNat := hle
    omega

/-- So a legal configuration admits the bytes asked for, and appending them keeps the invariant. -/
theorem Session.Inv_append_waiting {s : Session} {k : Nat} {xs : List Byte} (hinv : s.Inv)
    (h : s.scan = (s, .needMore k)) (hlen : xs.length ≤ k) : (s.append xs).Inv := by
  have hfits := Session.waiting_fits hinv h
  obtain ⟨-, hcap⟩ := hinv.config
  exact Session.Inv_append hinv xs (capAdmits_mono (by omega) hcap)

/-- With fewer bytes than asked for the scan still waits, for so many fewer. -/
theorem Session.scan_append_waiting {s : Session} {k : Nat} {xs : List Byte} (hinv : s.Inv)
    (h : s.scan = (s, .needMore k)) (hlt : xs.length < k) :
    (s.append xs).scan = (s.append xs, .needMore (k - xs.length)) := by
  have hav := s.avail_length_append xs hinv.cursor
  obtain ⟨rfl, -, -, -⟩ | ⟨w, hst, hw, hlen, -⟩ | ⟨n, hst, hn, hlen, -⟩ := Session.waiting_cases hinv h
  · obtain rfl : xs = [] := List.eq_nil_of_length_eq_zero (by omega)
    rw [s.append_nil, h]
    rfl
  · rw [Session.scan_address_short (s := s.append xs) hst hw (by omega), hav]
    congr 2
    omega
  · rw [Session.scan_data_short (s := s.append xs) hst hn (by omega), hav]
    congr 2
    omega

/-- With the bytes asked for a field taken whole is consumed, and the scan goes on behind it. -/
theorem Session.scan_append_enough {s : Session} {k : Nat} {xs : List Byte} (hinv : s.Inv)
    (h : s.scan = (s, .needMore k)) (hle : k ≤ xs.length) :
    (k = 1 ∧ s.avail = [] ∧ s.st ≠ .address ∧ s.st ≠ .data) ∨
    ∃ u : Session, (s.append xs).scan = u.scan ∧ s.buf.length < u.cur := by
  have hav := s.avail_length_append xs hinv.cursor
  have hs := s.avail_length
  have hcur := hinv.cursor
  obtain hone | ⟨w, hst, hw, hlen, hk⟩ | ⟨n, hst, hn, hlen, hk⟩ := Session.waiting_cases hinv h
  · exact .inl hone
  · refine .inr ⟨_, Session.scan_address_accept (s := s.append xs) hst hw (by omega), ?_⟩
    show s.buf.length < s.cur + w.bytes
    omega
  · refine .inr ⟨_, Session.scan_data_accept (s := s.append xs) hst hn (by omega), ?_⟩
    show s.buf.length < s.cur + n.toNat
    omega

/-! ## A scan that meets a byte -/

theorem Session.cur_lt_of_scan_eq {s u : Session} (h : s.scan = u.scan) (hlt : s.cur < u.cur) :
    s.cur < s.scan.1.cur :=
  h ▸ hlt.trans_le u.scan_cur_le

theorem Session.frameType_consumes_or_violates {s : Session} {b : Byte} {rest : List Byte} (hst : s.st = .frameType)
    (hav : s.avail = b :: rest) : (∃ v, s.scan.2 = .violation v) ∨ s.cur < s.scan.1.cur := by
  cases hb : isDelimiter b with
  | false => exact .inl ⟨_, by rw [Session.scan_frameType_invalid hst hav hb]⟩
  | true => exact .inr (Session.cur_lt_of_scan_eq (Session.scan_frameType_accept hst hav hb) (Nat.lt_succ_self _))

/-- In a state that takes one byte, a scan with a byte there consumes it or finds a violation
(42_stream_parser.md R92). -/
theorem Session.scan_consumes_or_violates {s : Session} {b : Byte} {rest : List Byte} (hinv : s.Inv)
    (hav : s.avail = b :: rest) (ha : s.st ≠ .address) (hd : s.st ≠ .data) :
    (∃ v, s.scan.2 = .violation v) ∨ s.cur < s.scan.1.cur := by
  have consumed {u : Session} (h : s.scan = u.scan) (hu : u.cur = s.cur + 1) :
      (∃ v, s.scan.2 = .violation v) ∨ s.cur < s.scan.1.cur :=
    .inr (Session.cur_lt_of_scan_eq h (hu ▸ Nat.lt_succ_self _))
  cases hst : s.st with
  | preamble =>
    by_cases hb : b = 0xFF#8
    · by_cases hp : s.pcount = s.cfg.maxPre
      · exact .inl ⟨_, by rw [Session.scan_preamble_tooLong hst hav hb hp]⟩
      · exact consumed (Session.scan_preamble_count hst hav hb hp) rfl
    · by_cases hp : s.pcount < s.cfg.minPre
      · exact .inl ⟨_, by rw [Session.scan_preamble_insufficient hst hav hb hp]⟩
      · rw [Session.scan_preamble_end hst hav hb hp]
        exact Session.frameType_consumes_or_violates (s := { s with st := .frameType }) rfl hav
  | frameType => exact Session.frameType_consumes_or_violates hst hav
  | address => exact absurd hst ha
  | command => exact consumed (Session.scan_command_accept hst hav) rfl
  | byteCount =>
    by_cases hb : b > s.cfg.maxBc
    · exact .inl ⟨_, by rw [Session.scan_byteCount_tooLarge hst hav hb]⟩
    · exact consumed (Session.scan_byteCount_accept hst hav hb) rfl
  | data => exact absurd hst hd
  | checksum =>
    obtain ⟨-, hne, -⟩ := s.scan_inv hinv
    cases hread : s.frameRead b with
    | error f => exact absurd (by rw [Session.scan_checksum_noField hst hav hread]) (hne f)
    | ok p =>
      by_cases hb : b = p.computed
      · rw [Session.scan_checksum_match hst hav hread hb]
        exact .inr (Nat.lt_succ_self _)
      · exact .inl ⟨_, by rw [Session.scan_checksum_mismatch hst hav hread hb]⟩

/-! ## WANTS -/

/-- The hint is exact: with as many bytes as asked for, the next scan consumes or finds a violation. -/
theorem Session.scan_append_exact {s : Session} {k : Nat} {xs : List Byte} (hinv : s.Inv)
    (h : s.scan = (s, .needMore k)) (hlen : xs.length = k) :
    (∃ v, (s.append xs).scan.2 = .violation v) ∨ s.cur < (s.append xs).scan.1.cur := by
  obtain ⟨rfl, hav, ha, hd⟩ | ⟨u, hu, hlt⟩ := Session.scan_append_enough hinv h hlen.ge
  · obtain ⟨b, rfl⟩ := List.length_eq_one_iff.mp hlen
    have hav' : (s.append [b]).avail = [b] := by rw [s.avail_append [b] hinv.cursor, hav]; rfl
    exact Session.scan_consumes_or_violates (Session.Inv_append_waiting hinv h hlen.le) hav' ha hd
  · exact .inr (Session.cur_lt_of_scan_eq (s := s.append xs) hu (hinv.cursor.trans_lt hlt))

/-- The bytes a scan asks for are those its field lacks. -/
theorem Session.needMore_eq_lacking {s : Session} {k : Nat} (hinv : s.Inv) (h : s.scan.2 = .needMore k) :
    1 ≤ k ∧ match s.scan.1.st with
      | .preamble | .command | .byteCount | .checksum => k = 1
      | .frameType => False
      | .address => ∃ w, s.scan.1.awidth = some w ∧ k = w.bytes - s.scan.1.avail.length
      | .data => ∃ n, s.scan.1.bc = some n ∧ k = n.toNat - s.scan.1.avail.length := by
  obtain ⟨hk, hlacks⟩ := s.scan_needMore hinv h
  refine ⟨hk, ?_⟩
  cases hst : s.scan.1.st with
  | frameType => simp [hst] at hlacks
  | address | data =>
    obtain ⟨w, hw, hlen⟩ := by simpa only [hst] using hlacks
    exact ⟨w, hw, by omega⟩
  | preamble | command | byteCount | checksum =>
    obtain ⟨hone, -⟩ := by simpa only [hst] using hlacks
    exact hone

/-- Settles O38: WANTS returns the hint of the scan NEXT_FRAME would make, and the hint is exact. -/
theorem wantsLooksAhead : Obligations.WantsLooksAhead := by
  refine ⟨fun s hinv hc => ?_, fun s k xs hinv h => ⟨Session.scan_append_waiting hinv h,
    Session.scan_append_exact hinv h⟩⟩
  obtain ⟨res, hres⟩ := Session.Inv.exists_returns hinv
  have hnext := exec_nextFrame_of_returns hc hres
  have returned {t : State} {r : Result} (ht : exec .nextFrame s = .next t) (hr : t.results = s.results ++ [r]) :
      t.session = s.session.scan.1 ∧ s.session.scan.2.Returns r := by
    obtain rfl := Host.Outcome.next.inj (hnext.symm.trans ht)
    obtain rfl : res = r := by simpa using hr
    exact ⟨rfl, hres⟩
  refine ⟨_, exec_wants_of_returns hc hres, ⟨fun hzero => ?_, fun ⟨t, p, ht, hr⟩ => ?_⟩, fun t v ht hr => ?_,
    fun t ht hr => ?_⟩
  · cases ho : s.session.scan.2 with
    | frame p => exact ⟨_, p, exec_nextFrame_of_returns hc (by simp [ho]), rfl⟩
    | needMore k =>
      obtain ⟨hk, -⟩ := Session.needMore_eq_lacking hinv ho
      simp only [ho, ScanOutcome.hint] at hzero
      omega
    | violation v => simp [ho, ScanOutcome.hint] at hzero
    | emptyField f => rw [ho] at hres; exact hres.elim
  · obtain ⟨-, hout⟩ := returned ht hr
    rw [ScanOutcome.returns_frame_iff.mp hout]
    rfl
  · obtain ⟨-, hout⟩ := returned ht hr
    rw [ScanOutcome.returns_violation_iff.mp hout]
    rfl
  · obtain ⟨hsession, hout⟩ := returned ht hr
    obtain ⟨k, ho⟩ := ScanOutcome.returns_needMore_iff.mp hout
    rw [hsession, ho]
    exact Session.needMore_eq_lacking hinv ho

end Sys2Proof.Machine
end

section
/-! Proof that COMPACT cannot be observed (10_state.md R27, 42_stream_parser.md R94). -/

namespace Sys2Proof.Machine

open Sys2Proof

/-! ## Operations on a session there is, or is not -/

/-- Every operation on a session but RESET is refused before the first RESET (70_reset_and_hazards.md R113). -/
theorem exec_of_not_created {i : Instr} {s : State} (hc : s.created = false) (hon : onSession i = true)
    (hi : ∀ c, i ≠ .reset c) : exec i s = .next (s.refuse .noSession) := by
  cases i with
  | reset c => exact absurd rfl (hi c)
  | checksum | encodeAddress | encode => simp [onSession] at hon
  | feed | nextFrame | wants | advance | compact => exact if_pos hc

theorem exec_feed_of_overflow {s : State} {bytes : List Byte} (hc : s.created = true)
    (hcap : capAdmits s.session.cfg.rxCap (s.session.avail.length + bytes.length) = false) :
    exec (.feed bytes) s = .next (s.refuse .rxOverflow) := by
  rw [exec, execFeed, if_neg (by simp [hc]), if_pos hcap]

theorem exec_advance_of_created {s : State} (n : Nat) (hc : s.created = true) :
    exec (.advance n) s = .next ({ s with session := s.session.discard n }.deliver .done) := by
  rw [exec, execAdvance, if_neg (by simp [hc])]

theorem exec_compact_of_created {s : State} (hc : s.created = true) :
    exec .compact s = .next ({ s with session := s.session.dropConsumed }.deliver .done) := by
  rw [exec, execCompact, if_neg (by simp [hc])]

/-! ## Every operation ends in a next state and keeps the invariant -/

theorem State.Inv.refuse {s : State} (h : s.Inv) (r : RefusalReason) : (s.refuse r).Inv :=
  Session.Inv_mark h true

theorem Session.Inv_fresh_of_legalConfig {v : ConfigValues} (h : legalConfig v = true) :
    (Session.fresh (configRegisters v)).Inv := by
  simp only [legalConfig, Bool.and_eq_true, decide_eq_true_eq] at h
  obtain ⟨⟨hpre, hbc⟩, hcap⟩ := h
  have hbc' : (configRegisters v).maxBc.toNat = v.maxBc :=
    (BitVec.toNat_ofNat v.maxBc 8).trans (Nat.mod_eq_of_lt (by omega))
  exact Session.Inv_fresh hpre (by rw [hbc']; exact hcap)

/-- From a state that meets the invariant no operation stops the machine, and each keeps the invariant
(10_state.md R28). -/
theorem exec_keeps_inv (i : Instr) {s : State} (hinv : s.Inv) : ∃ t, exec i s = .next t ∧ t.Inv := by
  by_cases hgate : s.created = false ∧ onSession i = true ∧ ∀ c, i ≠ .reset c
  · obtain ⟨hc, hon, hi⟩ := hgate
    exact ⟨_, exec_of_not_created hc hon hi, hinv.refuse _⟩
  cases i with
  | reset c =>
    by_cases hlegal : legalConfig (configValues c) = true
    · exact ⟨_, if_pos hlegal, Session.Inv_mark (Session.Inv_fresh_of_legalConfig hlegal) _⟩
    · exact ⟨_, if_neg hlegal, hinv.refuse _⟩
  | checksum | encodeAddress | encode => exact ⟨_, rfl, hinv⟩
  | feed bytes =>
    have hc : s.created = true := by simpa [onSession] using hgate
    cases hcap : capAdmits s.session.cfg.rxCap (s.session.avail.length + bytes.length) with
    | false => exact ⟨_, exec_feed_of_overflow hc hcap, hinv.refuse _⟩
    | true =>
      have happ := Session.Inv_append hinv bytes hcap
      obtain ⟨res, hres⟩ := happ.exists_returns
      obtain ⟨hscan, -⟩ := Session.scan_inv _ happ
      exact ⟨_, exec_feed_of_returns hc hcap hres, hscan⟩
  | nextFrame =>
    have hc : s.created = true := by simpa [onSession] using hgate
    obtain ⟨res, hres⟩ := Session.Inv.exists_returns hinv
    obtain ⟨hscan, -⟩ := Session.scan_inv _ hinv
    exact ⟨_, exec_nextFrame_of_returns hc hres, hscan⟩
  | wants =>
    have hc : s.created = true := by simpa [onSession] using hgate
    obtain ⟨res, hres⟩ := Session.Inv.exists_returns hinv
    exact ⟨_, exec_wants_of_returns hc hres, hinv⟩
  | advance n =>
    have hc : s.created = true := by simpa [onSession] using hgate
    exact ⟨_, exec_advance_of_created n hc, Session.Inv_discard hinv n⟩
  | compact =>
    have hc : s.created = true := by simpa [onSession] using hgate
    exact ⟨_, exec_compact_of_created hc, Session.Inv_dropConsumed hinv⟩

/-! ## Sessions alike but for what they have consumed -/

section

variable {s t : Session}

/-- Sessions have the same view when they are the same session once compacted. -/
theorem Session.sameView_iff_dropConsumed : s.SameView t ↔ s.dropConsumed = t.dropConsumed := by
  refine ⟨fun ⟨hav, hrest⟩ => ?_, fun h => ⟨congrArg Session.buf h, ?_⟩⟩
  · calc s.dropConsumed = { { s with buf := [], cur := 0 } with buf := s.avail } := rfl
      _ = { { t with buf := [], cur := 0 } with buf := t.avail } := by rw [hrest, hav]
      _ = t.dropConsumed := rfl
  · exact congrArg (fun u : Session => { u with buf := [], cur := 0 }) h

theorem Session.sameView_dropConsumed (s : Session) : s.SameView s.dropConsumed :=
  ⟨s.avail_dropConsumed.symm, rfl⟩

theorem Session.sameView_underlay (s : Session) (front back : List Byte) :
    (s.underlay front).SameView (s.underlay back) :=
  ⟨(s.avail_underlay front).trans (s.avail_underlay back).symm, rfl⟩

theorem Session.SameView.cfg_eq (h : s.SameView t) : s.cfg = t.cfg := (congrArg Session.cfg h.2 :)

theorem Session.SameView.refused_eq (h : s.SameView t) : s.refused = t.refused := (congrArg Session.refused h.2 :)

theorem Session.SameView.mark (h : s.SameView t) (b : Bool) :
    Session.SameView { s with refused := b } { t with refused := b } :=
  ⟨h.1, congrArg (fun u : Session => { u with refused := b }) h.2⟩

theorem Session.SameView.append (h : s.SameView t) (hs : s.cur ≤ s.buf.length) (ht : t.cur ≤ t.buf.length)
    (xs : List Byte) : (s.append xs).SameView (t.append xs) :=
  ⟨by rw [s.avail_append xs hs, t.avail_append xs ht, h.1], h.2⟩

theorem Session.SameView.discard (h : s.SameView t) (n : Nat) : (s.discard n).SameView (t.discard n) :=
  ⟨by rw [s.avail_discard, t.avail_discard, h.1], congrArg Session.resetParse h.2⟩

theorem Session.SameView.dropConsumed (h : s.SameView t) : s.dropConsumed.SameView t.dropConsumed :=
  ⟨by rw [s.avail_dropConsumed, t.avail_dropConsumed, h.1], h.2⟩

/-- Scans of sessions with the same view end alike: each is the compacted session with its own bytes in front, which
the scan does not look at. -/
theorem Session.SameView.scan (h : s.SameView t) (hs : s.cur ≤ s.buf.length) (ht : t.cur ≤ t.buf.length) :
    s.scan.1.SameView t.scan.1 ∧ s.scan.2 = t.scan.2 := by
  rw [Session.sameView_iff_dropConsumed] at h
  rw [← s.underlay_dropConsumed hs, ← t.underlay_dropConsumed ht, h, Session.scan_underlay, Session.scan_underlay]
  exact ⟨Session.sameView_underlay _ _ _, rfl⟩

end

/-! ## Machines alike but for what they have consumed -/

theorem State.SameView.results_eq {s t : State} (h : s.SameView t) : s.results = t.results :=
  (congrArg State.results h.2 :)

/-- An operation answers machines with the same view alike. -/
theorem exec_sameView (i : Instr) {s t : State} (hs : s.Inv) (ht : t.Inv) (h : s.SameView t) :
    ∃ s' t', exec i s = .next s' ∧ exec i t = .next t' ∧ s'.SameView t' := by
  obtain ⟨hview, htail⟩ := h
  obtain ⟨v, rfl⟩ : ∃ v, t = { s with session := v } := ⟨_, htail.symm⟩
  replace hview : s.session.SameView v := hview
  replace ht : v.Inv := ht
  have refused (r : RefusalReason) : State.SameView (s.refuse r) (State.refuse { s with session := v } r) :=
    ⟨hview.mark true, rfl⟩
  by_cases hgate : s.created = false ∧ onSession i = true ∧ ∀ c, i ≠ .reset c
  · obtain ⟨hc, hon, hi⟩ := hgate
    exact ⟨_, _, exec_of_not_created hc hon hi, exec_of_not_created hc hon hi, refused _⟩
  cases i with
  | reset c =>
    by_cases hlegal : legalConfig (configValues c) = true
    · refine ⟨_, _, if_pos hlegal, if_pos hlegal, ?_⟩
      have hcreate (cfg : Config) : State.createSession { s with session := v } cfg = s.createSession cfg := by
        simp only [State.createSession, hview.refused_eq]
      rw [hcreate]
      exact ⟨⟨rfl, rfl⟩, rfl⟩
    · exact ⟨_, _, if_neg hlegal, if_neg hlegal, refused _⟩
  | checksum => exact ⟨_, _, rfl, rfl, hview, rfl⟩
  | encodeAddress | encode =>
    refine ⟨_, _, rfl, rfl, hview, ?_⟩
    rw [hview.cfg_eq]
    rfl
  | feed bytes =>
    have hc : s.created = true := by simpa [onSession] using hgate
    have hcapEq : capAdmits v.cfg.rxCap (v.avail.length + bytes.length) =
        capAdmits s.session.cfg.rxCap (s.session.avail.length + bytes.length) := by rw [hview.cfg_eq, hview.1]
    cases hcap : capAdmits s.session.cfg.rxCap (s.session.avail.length + bytes.length) with
    | false =>
      exact ⟨_, _, exec_feed_of_overflow hc hcap, exec_feed_of_overflow hc (hcapEq.trans hcap), refused _⟩
    | true =>
      have hsapp := Session.Inv_append hs bytes hcap
      have htapp := Session.Inv_append ht bytes (hcapEq.trans hcap)
      obtain ⟨hscan, hout⟩ := (hview.append hs.cursor ht.cursor bytes).scan hsapp.cursor htapp.cursor
      obtain ⟨res, hres⟩ := hsapp.exists_returns
      exact ⟨_, _, exec_feed_of_returns hc hcap hres, exec_feed_of_returns hc (hcapEq.trans hcap) (hout ▸ hres),
        hscan, rfl⟩
  | nextFrame =>
    have hc : s.created = true := by simpa [onSession] using hgate
    obtain ⟨hscan, hout⟩ := hview.scan hs.cursor ht.cursor
    obtain ⟨res, hres⟩ := Session.Inv.exists_returns hs
    exact ⟨_, _, exec_nextFrame_of_returns hc hres, exec_nextFrame_of_returns hc (hout ▸ hres), hscan, rfl⟩
  | wants =>
    have hc : s.created = true := by simpa [onSession] using hgate
    obtain ⟨-, hout⟩ := hview.scan hs.cursor ht.cursor
    obtain ⟨res, hres⟩ := Session.Inv.exists_returns hs
    refine ⟨_, _, exec_wants_of_returns hc hres, exec_wants_of_returns hc (hout ▸ hres), hview, ?_⟩
    rw [hout]
  | advance n =>
    have hc : s.created = true := by simpa [onSession] using hgate
    exact ⟨_, _, exec_advance_of_created n hc, exec_advance_of_created n hc, hview.discard n, rfl⟩
  | compact =>
    have hc : s.created = true := by simpa [onSession] using hgate
    exact ⟨_, _, exec_compact_of_created hc, exec_compact_of_created hc, hview.dropConsumed, rfl⟩

/-- And so does a sequence of operations, the invariant being kept all along. -/
theorem execAll_sameView (is : List Instr) {s t : State} (hs : s.Inv) (ht : t.Inv) (h : s.SameView t) :
    ∃ s' t', execAll is s = .next s' ∧ execAll is t = .next t' ∧ s'.SameView t' := by
  induction is generalizing s t with
  | nil => exact ⟨s, t, rfl, rfl, h⟩
  | cons i rest ih =>
    obtain ⟨s', t', hs', ht', hview⟩ := exec_sameView i hs ht h
    obtain ⟨_, hs'', hsinv⟩ := exec_keeps_inv i hs
    obtain ⟨_, ht'', htinv⟩ := exec_keeps_inv i ht
    obtain rfl := Host.Outcome.next.inj (hs'.symm.trans hs'')
    obtain rfl := Host.Outcome.next.inj (ht'.symm.trans ht'')
    rw [execAll_cons_of_next rest hs', execAll_cons_of_next rest ht']
    exact ih hsinv htinv hview

/-- Settles O42: COMPACT is `Session.dropConsumed`, and machines with the same view run alike. -/
theorem compactUnobservable : Obligations.CompactUnobservable := by
  refine ⟨fun s hc => ⟨exec_compact_of_created hc, s.session.avail_dropConsumed,
    s.session.sameView_dropConsumed, rfl⟩, fun is s t hs ht h => ?_⟩
  obtain ⟨s', t', hs', ht', hview⟩ := execAll_sameView is hs ht h
  exact ⟨s', t', hs', ht', hview, hview.results_eq⟩

end Sys2Proof.Machine
end

section
/-! Proof that feeding is invariant under chunking (42_stream_parser.md R95). -/

namespace Sys2Proof.Machine

open Sys2Proof

/-! ## The byte that decides a scan -/

/-- A scan ends by the byte at index `j` of the buffer: a frame's checksum byte, the last consumed, or a violation's
offending byte, the first unconsumed (42_stream_parser.md R95). -/
def DecidedAt (r : Session × ScanOutcome) (j : Nat) : Prop :=
  match r.2 with
  | .frame _ => r.1.cur = j + 1
  | .violation _ => r.1.cur = j
  | .needMore _ | .emptyField _ => False

/-- The cursor behind a result that the byte at index `j` decides. -/
def Result.cursorAfter (r : Result) (j : Nat) : Nat :=
  match r with
  | .frame _ => j + 1
  | _ => j

theorem DecidedAt.cur_eq {r : Session × ScanOutcome} {j : Nat} {res : Result} (h : DecidedAt r j)
    (hres : r.2.Returns res) : r.1.cur = res.cursorAfter j := by
  obtain ⟨u, o⟩ := r
  cases o with
  | frame | violation => obtain rfl := hres; exact h
  | needMore | emptyField => exact h.elim

/-- The deciding byte is one of those the scan found unconsumed. -/
theorem DecidedAt.mem_avail {s : Session} {j : Nat} (h : DecidedAt s.scan j) :
    s.cur ≤ j ∧ j < s.buf.length := by
  cases ho : s.scan.2 with
  | frame p =>
    obtain ⟨-, n, hn, hle, hget⟩ := s.scan_frame ho
    obtain ⟨hlt, -⟩ := List.getElem?_eq_some_iff.mp hget
    simp only [DecidedAt, ho] at h
    omega
  | violation v =>
    obtain ⟨-, ⟨rest, hav⟩, -⟩ := s.scan_violation ho
    have hlt := Session.cur_lt_of_avail_cons hav
    have hle := s.scan_cur_le
    rw [s.scan_buf] at hlt
    simp only [DecidedAt, ho] at h
    omega
  | needMore | emptyField => simp [DecidedAt, ho] at h

theorem Session.Inv.exists_decidedAt {s : Session} (hinv : s.Inv) (hmore : ∀ k, s.scan.2 ≠ .needMore k) :
    ∃ j, DecidedAt s.scan j := by
  obtain ⟨-, hne, -⟩ := s.scan_inv hinv
  cases ho : s.scan.2 with
  | frame p =>
    obtain ⟨-, n, hn, -⟩ := s.scan_frame ho
    exact ⟨n, by simpa only [DecidedAt, ho] using hn⟩
  | violation v => exact ⟨s.scan.1.cur, by simp only [DecidedAt, ho]⟩
  | needMore k => exact absurd ho (hmore k)
  | emptyField f => exact absurd ho (hne f)

/-- Where a scan waited for more bytes, only a byte that comes later decides it. -/
theorem DecidedAt.length_le_of_waiting {s : Session} {k j : Nat} {xs : List Byte} (hinv : s.Inv)
    (hwait : s.scan = (s, .needMore k)) (h : DecidedAt (s.append xs).scan j) : s.buf.length ≤ j := by
  obtain hlt | hle := Nat.lt_or_ge xs.length k
  · rw [Session.scan_append_waiting hinv hwait hlt] at h
    exact h.elim
  obtain ⟨-, hav, -, -⟩ | ⟨u, hu, hlt⟩ := Session.scan_append_enough hinv hwait hle
  · have hcur : s.cur ≤ j := h.mem_avail.1
    have hlen := s.avail_length
    rw [hav, List.length_nil] at hlen
    omega
  · rw [hu] at h
    exact hlt.le.trans h.mem_avail.1

/-! ## Feeding one chunk and then the others -/

/-- A machine whose session may be fed `n` more bytes. -/
structure State.CanTake (s : State) (n : Nat) : Prop where
  inv : s.Inv
  created : s.created = true
  capacity : capAdmits s.session.cfg.rxCap (s.session.avail.length + n) = true

theorem State.CanTake.mono {s : State} {m n : Nat} (h : s.CanTake n) (hmn : m ≤ n) : s.CanTake m :=
  ⟨h.inv, h.created, capAdmits_mono (by omega) h.capacity⟩

theorem State.CanTake.inv_append {s : State} {xs : List Byte} (h : s.CanTake xs.length) :
    (s.session.append xs).Inv :=
  Session.Inv_append h.inv xs h.capacity

theorem State.CanTake.exec_feed {s : State} {xs : List Byte} {res : Result} (h : s.CanTake xs.length)
    (hres : (s.session.append xs).scan.2.Returns res) :
    exec (.feed xs) s =
      .next { s with session := (s.session.append xs).scan.1, results := s.results ++ [res] } :=
  exec_feed_of_returns h.created h.capacity hres

/-- The machine after a FEED that returned NeedMore. -/
def State.fedMore (s : State) (xs : List Byte) : State :=
  { s with session := (s.session.append xs).scan.1, results := s.results ++ [.needMore] }

section

variable {s : State} {xs ys : List Byte} {k : Nat}

theorem State.fedMore_buf (s : State) (xs : List Byte) : (s.fedMore xs).session.buf = s.session.buf ++ xs :=
  Session.scan_buf _

theorem State.CanTake.exec_feed_needMore (h : s.CanTake xs.length)
    (hmore : (s.session.append xs).scan.2 = .needMore k) : exec (.feed xs) s = .next (s.fedMore xs) :=
  h.exec_feed (ScanOutcome.returns_needMore_iff.mpr ⟨k, hmore⟩)

/-- After NeedMore the session waits. -/
theorem State.fedMore_waits (hmore : (s.session.append xs).scan.2 = .needMore k) :
    (s.fedMore xs).session.scan = ((s.fedMore xs).session, .needMore k) := by
  rw [← hmore]
  exact Session.scan_settled _ (by simp [hmore])

/-- After NeedMore the rest of the bytes may be fed. -/
theorem State.CanTake.fedMore (h : s.CanTake (xs ++ ys).length) : (s.fedMore xs).CanTake ys.length := by
  rw [List.length_append] at h
  have happ := (h.mono (Nat.le_add_right ..)).inv_append
  refine ⟨(Session.scan_inv _ happ).1, h.created, ?_⟩
  have hcfg : (s.fedMore xs).session.cfg = s.session.cfg := Session.scan_cfg _
  have hcur : s.session.cur ≤ (s.fedMore xs).session.cur := Session.scan_cur_le (s.session.append xs)
  have hbuf := congrArg List.length (s.fedMore_buf xs)
  rw [List.length_append] at hbuf
  have hlen := s.session.avail_length
  have hlen' := (s.fedMore xs).session.avail_length
  have hcursor := h.inv.cursor
  rw [hcfg]
  exact capAdmits_mono (by omega) h.capacity

/-- After NeedMore the rest of the bytes end the scan as all of them do. -/
theorem State.scan_fedMore_append (h : s.CanTake xs.length) (hmore : (s.session.append xs).scan.2 = .needMore k)
    (ys : List Byte) : ((s.fedMore xs).session.append ys).scan = (s.session.append (xs ++ ys)).scan := by
  have happ := (s.session.append xs).scan_append ys h.inv_append.cursor
  rw [hmore, Session.append_append] at happ
  exact happ.symm

/-- When the first bytes give an outcome, all the bytes give the same and leave the others unread. -/
theorem State.scan_append_of_decided (h : s.CanTake xs.length)
    (hmore : ∀ k, (s.session.append xs).scan.2 ≠ .needMore k) (ys : List Byte) :
    (s.session.append (xs ++ ys)).scan =
      ((s.session.append xs).scan.1.append ys, (s.session.append xs).scan.2) := by
  have happ := (s.session.append xs).scan_append ys h.inv_append.cursor
  rw [Session.append_append] at happ
  split at happ
  · next k hk => exact absurd hk (hmore k)
  · exact happ

end

/-! ## Feeding all the chunks -/

/-- When all the bytes give no outcome, every chunk's FEED returns NeedMore and the session ends the same. -/
theorem State.CanTake.execAll_feed_needMore (chunk : List Byte) (rest : List (List Byte)) {s : State} {k : Nat}
    (h : s.CanTake (chunk :: rest).flatten.length)
    (hmore : (s.session.append (chunk :: rest).flatten).scan.2 = .needMore k) :
    execAll ((chunk :: rest).map .feed) s = .next { s with
      session := (s.session.append (chunk :: rest).flatten).scan.1
      results := s.results ++ List.replicate (chunk :: rest).length .needMore } := by
  induction rest generalizing s chunk with
  | nil =>
    simp only [List.flatten_cons, List.flatten_nil, List.append_nil] at h hmore ⊢
    exact execAll_cons_of_next [] (h.exec_feed_needMore hmore)
  | cons next rest ih =>
    rw [List.flatten_cons] at h hmore ⊢
    have hchunk : s.CanTake chunk.length := h.mono (by simp)
    obtain ⟨m, hm⟩ : ∃ m, (s.session.append chunk).scan.2 = .needMore m := by
      by_contra hno
      have hall := State.scan_append_of_decided hchunk (fun m hm => hno ⟨m, hm⟩) (next :: rest).flatten
      exact hno ⟨k, by rw [← hmore, hall]⟩
    have hscan := State.scan_fedMore_append hchunk hm (next :: rest).flatten
    rw [List.map_cons, execAll_cons_of_next _ (hchunk.exec_feed_needMore hm),
      ih next h.fedMore (by rw [hscan, hmore]), hscan]
    simp [State.fedMore, List.replicate_succ]

/-- Feeding `chunks` one by one stops in the chunk that holds the byte at index `j`: the FEEDs before it return
NeedMore, and its FEED returns `res` and leaves session `u` but for the bytes not fed (42_stream_parser.md R95). -/
def State.StopsInChunk (s : State) (chunks : List (List Byte)) (u : Session) (res : Result) (j : Nat) : Prop :=
  ∃ (before after : List (List Byte)) (last : List Byte), chunks = before ++ last :: after ∧
    (before ≠ [] → s.session.buf.length + before.flatten.length ≤ j) ∧
    j < s.session.buf.length + before.flatten.length + last.length ∧
    execAll (before.map .feed ++ [.feed last]) s = .next { s with
      session := { u with buf := s.session.buf ++ before.flatten ++ last }
      results := s.results ++ List.replicate before.length .needMore ++ [res] }

section

variable {s : State} {chunk : List Byte} {j : Nat} {res : Result}

theorem State.stopsInChunk_first (h : s.CanTake chunk.length) (hj : DecidedAt (s.session.append chunk).scan j)
    (hres : (s.session.append chunk).scan.2.Returns res) (rest : List (List Byte)) :
    s.StopsInChunk (chunk :: rest) ((s.session.append chunk).scan.1.append rest.flatten) res j := by
  have hbuf := (s.session.append chunk).scan_buf
  obtain ⟨-, hhigh⟩ := hj.mem_avail
  rw [Session.append_buf] at hbuf hhigh
  refine ⟨[], rest, chunk, rfl, fun hne => absurd rfl hne, by simpa using hhigh, ?_⟩
  refine (execAll_cons_of_next [] (h.exec_feed hres)).trans ?_
  rw [List.flatten_nil, List.append_nil, ← hbuf]
  simp [Session.append]

theorem State.StopsInChunk.cons {rest : List (List Byte)} {u : Session}
    (hrest : (s.fedMore chunk).StopsInChunk rest u res j)
    (hfirst : exec (.feed chunk) s = .next (s.fedMore chunk)) (hj : s.session.buf.length + chunk.length ≤ j) :
    s.StopsInChunk (chunk :: rest) u res j := by
  obtain ⟨before, after, last, rfl, hlow, hhigh, hrun⟩ := hrest
  rw [s.fedMore_buf, List.length_append] at hlow hhigh
  refine ⟨chunk :: before, after, last, rfl, fun _ => ?_, ?_, ?_⟩
  · rw [List.flatten_cons, List.length_append]
    obtain rfl | hne := eq_or_ne before []
    · simpa using hj
    · have hbefore := hlow hne
      omega
  · rw [List.flatten_cons, List.length_append]
    omega
  · rw [List.map_cons, List.cons_append, execAll_cons_of_next _ hfirst, hrun, s.fedMore_buf]
    simp [State.fedMore, List.replicate_succ]

end

/-- When all the bytes give an outcome, the FEEDs of the chunks stop in the one that holds the deciding byte. -/
theorem State.CanTake.stopsInChunk (chunk : List Byte) (rest : List (List Byte)) {s : State} {j : Nat}
    {res : Result} (h : s.CanTake (chunk :: rest).flatten.length)
    (hj : DecidedAt (s.session.append (chunk :: rest).flatten).scan j)
    (hres : (s.session.append (chunk :: rest).flatten).scan.2.Returns res) :
    s.StopsInChunk (chunk :: rest) (s.session.append (chunk :: rest).flatten).scan.1 res j := by
  induction rest generalizing s chunk with
  | nil =>
    rw [List.flatten_cons, List.flatten_nil, List.append_nil] at h hj hres ⊢
    simpa [Session.append_nil] using State.stopsInChunk_first h hj hres []
  | cons next rest ih =>
    rw [List.flatten_cons] at h hj hres ⊢
    have hchunk : s.CanTake chunk.length := h.mono (by simp)
    by_cases hfirst : ∃ m, (s.session.append chunk).scan.2 = .needMore m
    · obtain ⟨m, hm⟩ := hfirst
      rw [← State.scan_fedMore_append hchunk hm] at hj hres ⊢
      have hlow := hj.length_le_of_waiting h.fedMore.inv (State.fedMore_waits hm)
      rw [s.fedMore_buf, List.length_append] at hlow
      exact (ih next h.fedMore hj hres).cons (hchunk.exec_feed_needMore hm) hlow
    · have hall := State.scan_append_of_decided hchunk (fun m hm => hfirst ⟨m, hm⟩) (next :: rest).flatten
      rw [hall] at hj hres ⊢
      exact State.stopsInChunk_first hchunk hj hres (next :: rest)

/-- Settles O43: `execAll_feed_needMore` when all the bytes ask for more, else `stopsInChunk`. -/
theorem chunkInvariance : Obligations.ChunkInvariance := by
  intro chunks s t r hinv hc hcap hne hexec hr
  obtain ⟨chunk, rest, rfl⟩ := List.exists_cons_of_ne_nil hne
  have htake : s.CanTake (chunk :: rest).flatten.length := ⟨hinv, hc, (capAdmits_iff _ _).mpr hcap⟩
  obtain ⟨res, hres⟩ := htake.inv_append.exists_returns
  obtain rfl := Host.Outcome.next.inj ((htake.exec_feed hres).symm.trans hexec)
  obtain rfl : res = r := by simpa using hr
  refine ⟨?_, fun hmore => ?_⟩
  · rintro rfl
    obtain ⟨k, hk⟩ := ScanOutcome.returns_needMore_iff.mp hres
    exact htake.execAll_feed_needMore chunk rest hk
  · have hout (k : Nat) : (s.session.append (chunk :: rest).flatten).scan.2 ≠ .needMore k :=
      fun hk => hmore (by rw [hk] at hres; exact hres)
    obtain ⟨j, hj⟩ := htake.inv_append.exists_decidedAt hout
    obtain ⟨before, after, last, hsplit, hlow, hhigh, hrun⟩ := htake.stopsInChunk chunk rest hj hres
    exact ⟨before, after, last, j, hsplit, hj.cur_eq hres, hlow, hhigh, hrun⟩

end Sys2Proof.Machine
end

section
/-! Proof of a returned violation's information (60_exceptions.md R98, R99). -/

namespace Sys2Proof.Machine

open Sys2Proof

/-- Settles O36: a returned violation is a scan's, and `Session.scan_violation` says what it tells of the session the
scan leaves. -/
theorem returnedViolationInformation : Obligations.ReturnedViolationInformation := by
  intro i s t v hi hexec hres
  obtain ⟨u, hsession, hout⟩ := scan_of_result_returned hi hexec hres
  obtain ⟨hst, hnext, hinfo⟩ := u.scan_violation (ScanOutcome.returns_violation_iff.mp hout)
  rw [← hsession] at hst hnext hinfo
  cases v with
  | insufficientPreamble | preambleTooLong | byteCountTooLarge => exact ⟨hst, hnext, hinfo⟩
  | invalidDelimiter b =>
    refine ⟨hst, hnext, ?_⟩
    rw [← isDelimiter_iff, Bool.not_eq_true]
    exact hinfo
  | checksumMismatch c r =>
    obtain ⟨hne, p, hread, hsum⟩ := hinfo
    obtain ⟨hft, haddr, hcmd, hbc, hdata, -⟩ := Session.frameRead_ok hread
    exact ⟨hst, hnext, hne, _, _, _, _, _, hft, haddr, hcmd, hbc, hdata, hsum⟩

end Sys2Proof.Machine
end

section
/-! Proof that the configuration is fixed between RESETs (70_reset_and_hazards.md R112). -/

namespace Sys2Proof.Machine

open Sys2Proof

/-- Settles O12: a refusal writes only the mark, and of the operations that return a result only RESET replaces the
configuration (`exec_next_cases`). -/
theorem configurationFixedBetweenResets : Obligations.ConfigurationFixedBetweenResets := by
  intro i s t hne hexec
  rcases exec_next_cases hexec with ⟨r, rfl⟩ | ⟨u, r, rfl, -, hcfg⟩ | ⟨c, r, hreset, -⟩
  · rw [State.refuse_session]
  · exact hcfg
  · exact absurd hreset (hne c)

end Sys2Proof.Machine
end

section
/-! Proofs of decoding, of the step and of the assembler (30_encoding.md R56 to R62, 70_reset_and_hazards.md R115). -/

namespace Sys2Proof.Machine

open Sys2Proof

/-! ## Commands and operations -/

theorem decode_encode (i : Instr) : decode (encode i) = .ok i ∧ (encode i).WellFormed := by
  cases i with
  | reset cfg => exact Laws.RoundTrip.reset cfg
  | checksum bytes => exact Laws.RoundTrip.checksum bytes
  | encodeAddress a => exact Laws.RoundTrip.encodeAddress a
  | encode f npre => exact Laws.RoundTrip.encode f npre
  | feed bytes => exact Laws.RoundTrip.feed bytes
  | nextFrame => exact Laws.RoundTrip.nextFrame
  | wants => exact Laws.RoundTrip.wants
  | advance n => exact Laws.RoundTrip.advance n
  | compact => exact Laws.RoundTrip.compact

theorem encode_eq_of_fields {c : Command} {i : Instr} (hover : c.overlapping = false) (hop : c.op = opcode i)
    (hlanes : c.operands = operandsOf i) : encode i = c := by
  rw [encode, ← hop, ← hlanes, ← hover]

/-- Every canonical command is the command of the operation its code names, with the operands of that operation's
lanes. -/
theorem exists_encode_eq_of_wellFormed {c : Command} (h : c.WellFormed) : ∃ i, encode i = c := by
  obtain ⟨hover, ⟨hop, ho⟩ | ⟨hop, ho⟩ | ⟨hop, ho⟩ | ⟨hop, ho⟩ | ⟨hop, ho⟩ | ⟨hop, ho⟩ | ⟨hop, ho⟩ | ⟨hop, ho⟩ |
    ⟨hop, ho⟩⟩ := h
  · exact ⟨.reset _, encode_eq_of_fields hover hop ho⟩
  · exact ⟨.checksum _, encode_eq_of_fields hover hop ho⟩
  · exact ⟨.encodeAddress _, encode_eq_of_fields hover hop ho⟩
  · exact ⟨.encode _ _, encode_eq_of_fields hover hop ho⟩
  · exact ⟨.feed _, encode_eq_of_fields hover hop ho⟩
  · exact ⟨.nextFrame, encode_eq_of_fields hover hop ho⟩
  · exact ⟨.wants, encode_eq_of_fields hover hop ho⟩
  · exact ⟨.advance _, encode_eq_of_fields hover hop ho⟩
  · exact ⟨.compact, encode_eq_of_fields hover hop ho⟩

/-- Settles O1: decoding inverts encoding, and every canonical command is an encoded one. -/
theorem decodeEncodeAgree : Obligations.DecodeEncodeAgree := by
  refine ⟨decode_encode, fun c hc => ?_⟩
  obtain ⟨i, rfl⟩ := exists_encode_eq_of_wellFormed hc
  exact ⟨i, (decode_encode i).1, rfl⟩

/-- Settles O2: `decode` is the table, whatever the lanes it does not read. -/
theorem operationTableDecodes : Obligations.OperationTableDecodes :=
  fun _ _ => ⟨rfl, rfl, rfl, rfl, rfl, rfl, rfl, rfl, rfl⟩

/-- The codes between and behind those of the table (30_encoding.md R58). -/
theorem decode_of_unassigned {c : Command}
    (h : 0x04 ≤ c.op.toNat ∧ c.op.toNat ≤ 0x0F ∨ 0x15 ≤ c.op.toNat) : decode c = .error .badOpcode := by
  unfold decode
  split
  case h_10 => rfl
  all_goals omega

/-! ## What is accepted -/

theorem accept_of_decode_error {c : Command} {r : RefusalReason} (h : decode c = .error r) : accept c = .error r := by
  simp only [accept, h]

theorem accept_of_decode_ok {c : Command} {i : Instr} (h : decode c = .ok i)
    (hfree : c.overlapping = false ∨ onSession i = false) : accept c = .ok i := by
  obtain hover | hon := hfree
  · simp [accept, h, hover]
  · simp [accept, h, hon]

theorem accept_of_overlapping {c : Command} {i : Instr} (h : decode c = .ok i) (hover : c.overlapping = true)
    (hon : onSession i = true) : accept c = .error .concurrentInvocation := by
  simp [accept, h, hover, hon]

/-! ## One step -/

section

variable {s : State} {c : Command} {rest : List Command}

theorem step_of_idle (h : s.pending = []) : step s = .next s := by
  simp only [step, State.fetch, h]

theorem step_of_accept_error {r : RefusalReason} (h : s.pending = c :: rest) (hacc : accept c = .error r) :
    step s = .next (State.refuse { s with pending := rest } r) := by
  simp only [step, State.fetch, h, hacc]

theorem step_of_accept_ok {i : Instr} (h : s.pending = c :: rest) (hacc : accept c = .ok i) :
    step s = exec i { s with pending := rest } := by
  simp only [step, State.fetch, h, hacc]

end

/-- Everything a step can be: idle, a refusal before the operation begins, or the operation. -/
theorem step_cases (s : State) :
    step s = .next s ∨ (∃ rest r, step s = .next (State.refuse { s with pending := rest } r)) ∨
    ∃ rest i, step s = exec i { s with pending := rest } := by
  cases h : s.pending with
  | nil => exact .inl (step_of_idle h)
  | cons c rest =>
    cases hacc : accept c with
    | error r => exact .inr (.inl ⟨rest, r, step_of_accept_error h hacc⟩)
    | ok i => exact .inr (.inr ⟨rest, i, step_of_accept_ok h hacc⟩)

/-- Settles O6: there is no command to fetch. -/
theorem idleStepChangesNothing : Obligations.IdleStepChangesNothing := fun _ => step_of_idle

/-- Settles O3: such a code does not decode, and the command is refused for that, overlapping or not. -/
theorem unassignedCodeRefused : Obligations.UnassignedCodeRefused := fun _ _ _ hp hcode =>
  step_of_accept_error hp (accept_of_decode_error (decode_of_unassigned hcode))

theorem decode_of_decodeTableWord {w : Nat} {i : Instr} (h : decodeTableWord 8 w = some i) :
    decode (commandOfWord w) = .ok i := by
  unfold decodeTableWord at h
  split at h
  · cases hd : decode (commandOfWord w) with
    | error r => simp [hd] at h
    | ok j => simpa [hd] using h
  · simp at h

/-- Settles O4: what decodes and overlaps nothing is accepted, and a placed code's command overlaps nothing. -/
theorem stepRunsDecodedOperation : Obligations.StepRunsDecodedOperation := by
  refine ⟨fun s c rest i hp hd hfree => step_of_accept_ok hp (accept_of_decode_ok hd hfree), fun s w i hw => ?_⟩
  have hacc := accept_of_decode_ok (decode_of_decodeTableWord hw) (.inl rfl)
  exact step_of_accept_ok (s := s.withFetchWord 8 w) rfl hacc

/-- Settles O5: the operations on a session are refused, the encoder's three accepted. -/
theorem overlappingOperationRefused : Obligations.OverlappingOperationRefused := by
  intro s c rest i hp hd hover
  cases i with
  | checksum | encodeAddress | encode => exact step_of_accept_ok hp (accept_of_decode_ok hd (.inr rfl))
  | reset | feed | nextFrame | wants | advance | compact =>
    exact step_of_accept_error hp (accept_of_overlapping hd hover rfl)

/-! ## The assembler -/

/-- Settles O8: the reader is evaluated on the lines. -/
theorem assemblerReadsProgramLines : Obligations.AssemblerReadsProgramLines := by
  refine ⟨?_, ?_, ?_, ?_, ?_⟩ <;> decide

end Sys2Proof.Machine
end

section
/-! Proofs of RESET, of the refusals and of what every step keeps (10_state.md R22, R23, R28,
70_reset_and_hazards.md R111, R113, R124, R125). -/

namespace Sys2Proof.Machine

open Sys2Proof

/-! ## RESET -/

theorem exec_reset_of_wellFormed {c : ConfigOperand} (s : State) (h : c.WellFormed) :
    exec (.reset c) s = .next ((s.createSession (configRegisters (configValues c))).deliver .done) :=
  if_pos ((legalConfig_iff c).mpr h)

theorem exec_reset_of_not_wellFormed {c : ConfigOperand} (s : State) (h : ¬ c.WellFormed) :
    exec (.reset c) s = .next (s.refuse .illegalConfig) :=
  if_neg (mt (legalConfig_iff c).mp h)

/-- Settles O9: the session is the fresh one with the operand's values, and bears the mark only at a re-creation. -/
theorem resetCreatesSession : Obligations.ResetCreatesSession := by
  intro c s hlegal
  have hmark : (s.created && s.session.refused) = if s.created then s.session.refused else false := by
    cases s.created <;> rfl
  rw [exec_reset_of_wellFormed s hlegal, ← hmark]
  rfl

/-- Settles O10: each disjunct denies one clause of a legal configuration. -/
theorem illegalConfigurationRefused : Obligations.IllegalConfigurationRefused := by
  intro c s hbad
  refine exec_reset_of_not_wellFormed s fun ⟨hpre, hbc, hcap⟩ => ?_
  obtain h | h | ⟨n, hn, h⟩ := hbad
  · exact hpre.not_gt h
  · exact hbc.not_gt h
  · rw [hn] at hcap
    exact (max_le hcap.1 hcap.2).not_gt h

/-- Settles O11: both sides are the fresh session with the default configuration. -/
theorem stateAfterReset : Obligations.StateAfterReset :=
  ⟨rfl, exec_reset_of_wellFormed State.noSession (by decide)⟩

/-! ## Refusals of the parser's operations -/

/-- Settles O13: the five are the operations on a session other than RESET. -/
theorem parserNeedsSession : Obligations.ParserNeedsSession := by
  intro i s hc hi
  cases i with
  | reset | checksum | encodeAddress | encode => exact hi.elim
  | feed | nextFrame | wants | advance | compact => exact exec_of_not_created hc rfl (by simp)

/-- Settles O32: the bytes exceed the finite capacity. -/
theorem feedOverflowRefused : Obligations.FeedOverflowRefused := by
  intro bytes s n hc hn hlt
  exact exec_feed_of_overflow hc (by simp [capAdmits, hn, hlt])

/-! ## FEED -/

/-- Settles O34: the invariant's capacity admits no bytes more, and appending none changes nothing. -/
theorem feedNothingIsNextFrame : Obligations.FeedNothingIsNextFrame := by
  intro s hinv
  cases hc : s.created with
  | false => rw [exec_of_not_created hc rfl (by simp), exec_of_not_created hc rfl (by simp)]
  | true =>
    calc exec (.feed []) s
        = s.endScan (s.session.append []).scan := execFeed_eq [] hc hinv.capacity
      _ = s.endScan s.session.scan := by rw [s.session.append_nil]
      _ = exec .nextFrame s := by rw [exec, execNextFrame, if_neg (by simp [hc])]

/-- Settles O31: the appended session meets the invariant, so its scan's outcome is returned. -/
theorem feedAppendsAndScans : Obligations.FeedAppendsAndScans := by
  intro bytes s hinv hc hcap
  have htake : s.CanTake bytes.length := ⟨hinv, hc, (capAdmits_iff _ _).mpr hcap⟩
  obtain ⟨res, hres⟩ := htake.inv_append.exists_returns
  exact ⟨res, htake.exec_feed hres, hres⟩

/-- Settles O39: the bytes asked for complete one field, which a legal configuration admits. -/
theorem wantsNeverOverflows : Obligations.WantsNeverOverflows := by
  rintro s t xs _ hinv hc hwait rfl
  have hfits := Session.waiting_fits hinv hwait
  refine ⟨hfits, fun hexec => ?_⟩
  have hconfig : s.session.ConfigLegal := hinv.config
  have htake : s.CanTake xs.length := ⟨hinv, hc, capAdmits_mono hfits hconfig.2⟩
  obtain ⟨res, hres⟩ := htake.inv_append.exists_returns
  obtain rfl := Host.Outcome.next.inj ((htake.exec_feed hres).symm.trans hexec)
  rfl

/-- Settles O41: the offending byte is the first unconsumed one (`Session.scan_violation`). -/
theorem advanceDropsOffendingByte : Obligations.AdvanceDropsOffendingByte := by
  intro s v hc hpend
  obtain ⟨-, ⟨rest, hav⟩, -⟩ := s.session.scan_violation (v := v) (by rw [hpend])
  rw [hpend] at hav
  refine ⟨_, exec_advance_of_created 1 hc, ?_, rfl, rfl, rfl⟩
  rw [State.deliver_session, Session.avail_discard, hav]
  rfl

/-! ## The invariant -/

/-- Settles O49: both start from the fresh session of the default configuration. -/
theorem invariantAtReset : Obligations.InvariantAtReset :=
  have hfresh : (Session.fresh Config.default).Inv := Session.Inv_fresh (by decide) rfl
  ⟨hfresh, hfresh⟩

/-- From a state that meets the invariant every step answers a next state that meets it (10_state.md R28,
70_reset_and_hazards.md R125). -/
theorem step_keeps_inv {s : State} (hinv : s.Inv) : ∃ t, step s = .next t ∧ t.Inv := by
  obtain hidle | ⟨rest, r, href⟩ | ⟨rest, i, hexec⟩ := step_cases s
  · exact ⟨s, hidle, hinv⟩
  · exact ⟨_, href, State.Inv.refuse (s := { s with pending := rest }) hinv r⟩
  · rw [hexec]
    exact exec_keeps_inv i hinv

/-- Settles O48: the next state is the one of `step_keeps_inv`. -/
theorem stepKeepsInvariant : Obligations.StepKeepsInvariant := by
  intro s t hinv hstep
  obtain ⟨u, hu, huinv⟩ := step_keeps_inv hinv
  obtain rfl := Host.Outcome.next.inj (hu.symm.trans hstep)
  exact huinv

/-- Settles O50: the first half of `step_keeps_inv`. -/
theorem stepNeverStops : Obligations.StepNeverStops := fun _ hinv =>
  let ⟨t, ht, _⟩ := step_keeps_inv hinv
  ⟨t, ht⟩

/-! ## Results and the mark -/

/-- Settles O51: the three cases of `exec_next_cases`. -/
theorem oneResultOrRefusal : Obligations.OneResultOrRefusal := by
  intro i s t hexec
  obtain ⟨r, rfl⟩ | ⟨u, r, rfl, -, -⟩ | ⟨c, r, -, rfl⟩ := exec_next_cases hexec
  · exact .inr ⟨r, rfl⟩
  · exact .inl ⟨r, rfl, rfl, rfl⟩
  · exact .inl ⟨r, rfl, rfl, rfl⟩

theorem exec_keeps_created {i : Instr} {s t : State} (hc : s.created = true) (h : exec i s = .next t) :
    t.created = true := by
  obtain ⟨r, rfl⟩ | ⟨u, r, rfl, -, -⟩ | ⟨c, r, -, rfl⟩ := exec_next_cases h
  · exact hc
  · exact hc
  · rfl

/-- No operation clears the mark of a created session; a RESET keeps it (10_state.md R23). -/
theorem exec_keeps_mark {i : Instr} {s t : State} (hc : s.created = true) (hmark : s.session.refused = true)
    (h : exec i s = .next t) : t.session.refused = true := by
  obtain ⟨r, rfl⟩ | ⟨u, r, rfl, hu, -⟩ | ⟨c, r, -, rfl⟩ := exec_next_cases h
  · rfl
  · exact hu.trans hmark
  · simp [hc, hmark]

/-- Settles O52: a refusal sets the mark, and no operation clears it. -/
theorem refusedMarkStays : Obligations.RefusedMarkStays := by
  intro s t hc hmark hstep
  obtain hidle | ⟨rest, r, href⟩ | ⟨rest, i, hexec⟩ := step_cases s
  · obtain rfl := Host.Outcome.next.inj (hidle.symm.trans hstep)
    exact ⟨hc, hmark⟩
  · obtain rfl := Host.Outcome.next.inj (href.symm.trans hstep)
    exact ⟨hc, rfl⟩
  · have hrun := hexec.symm.trans hstep
    exact ⟨exec_keeps_created (s := { s with pending := rest }) hc hrun,
      exec_keeps_mark (s := { s with pending := rest }) hc hmark hrun⟩

/-- Of the operations only a refused one sets the mark. -/
theorem exec_sets_mark {i : Instr} {s t : State} (h : exec i s = .next t) (hs : s.session.refused = false)
    (ht : t.session.refused = true) : ∃ r, t = s.refuse r := by
  obtain ⟨r, rfl⟩ | ⟨u, r, rfl, hmark, -⟩ | ⟨c, r, -, rfl⟩ := exec_next_cases h
  · exact ⟨r, rfl⟩
  · exact absurd (hmark.symm.trans ht) (by simp [hs])
  · simp [hs] at ht

/-- Settles O53: an idle step keeps the session, and both kinds of refusal note their reason. -/
theorem markSetOnlyByRefusal : Obligations.MarkSetOnlyByRefusal := by
  intro s t hstep hs ht
  obtain hidle | ⟨rest, r, href⟩ | ⟨rest, i, hexec⟩ := step_cases s
  · obtain rfl := Host.Outcome.next.inj (hidle.symm.trans hstep)
    exact absurd ht (by simp [hs])
  · obtain rfl := Host.Outcome.next.inj (href.symm.trans hstep)
    exact ⟨r, rfl, rfl⟩
  · obtain ⟨r, rfl⟩ := exec_sets_mark (s := { s with pending := rest }) (hexec.symm.trans hstep) hs ht
    exact ⟨r, rfl, rfl⟩

/-! ## The buffer and the cursor -/

/-- The cursor of `t` is not before that of `s`, and within the buffer (10_state.md R22). -/
def Session.Ahead (s t : Session) : Prop :=
  s.cur ≤ t.cur ∧ t.cur ≤ t.buf.length

theorem Session.ahead_scan {s : Session} (h : s.cur ≤ s.buf.length) : s.Ahead s.scan.1 :=
  ⟨s.scan_cur_le, by rw [s.scan_buf]; exact s.scan_cursor h⟩

theorem Session.ahead_discard {s : Session} (h : s.cur ≤ s.buf.length) (n : Nat) : s.Ahead (s.discard n) := by
  have hlen := s.avail_length
  refine ⟨Nat.le_add_right .., ?_⟩
  rw [discard_cur, discard_buf]
  omega

/-- Settles O54: the session is left as it was, or scanned, or scanned with the fed bytes behind it, or discarded
from. -/
theorem cursorMovesForward : Obligations.CursorMovesForward := by
  intro i s t hinv hreset hcompact hexec
  have hcur : s.session.cur ≤ s.session.buf.length := hinv.cursor
  have unmoved : s.session.Ahead s.session := ⟨Nat.le_refl _, hcur⟩
  suffices h : s.session.Ahead t.session ∧ (t.session.buf = s.session.buf ∨
      ∃ bytes, i = .feed bytes ∧ t.session.buf = s.session.buf ++ bytes) from ⟨h.1.1, h.1.2, h.2⟩
  by_cases hgate : s.created = false ∧ onSession i = true
  · obtain ⟨hc, hon⟩ := hgate
    obtain rfl := Host.Outcome.next.inj ((exec_of_not_created hc hon hreset).symm.trans hexec)
    exact ⟨unmoved, .inl rfl⟩
  cases i with
  | reset c => exact absurd rfl (hreset c)
  | compact => exact absurd rfl hcompact
  | checksum | encodeAddress | encode =>
    obtain rfl := Host.Outcome.next.inj hexec
    exact ⟨unmoved, .inl rfl⟩
  | feed bytes =>
    obtain ⟨r, rfl⟩ | ⟨hcap, hend⟩ := exec_feed_next_cases hexec
    · exact ⟨unmoved, .inl rfl⟩
    · obtain ⟨res, rfl, -⟩ := State.endScan_next hend
      exact ⟨Session.ahead_scan (Session.Inv_append hinv bytes hcap).cursor, .inr ⟨bytes, rfl, Session.scan_buf _⟩⟩
  | nextFrame =>
    obtain rfl | hend := exec_nextFrame_next_cases hexec
    · exact ⟨unmoved, .inl rfl⟩
    · obtain ⟨res, rfl, -⟩ := State.endScan_next hend
      exact ⟨Session.ahead_scan hcur, .inl (Session.scan_buf _)⟩
  | wants =>
    have hc : s.created = true := by simpa [onSession] using hgate
    obtain ⟨res, hres⟩ := Session.Inv.exists_returns hinv
    obtain rfl := Host.Outcome.next.inj ((exec_wants_of_returns hc hres).symm.trans hexec)
    exact ⟨unmoved, .inl rfl⟩
  | advance n =>
    have hc : s.created = true := by simpa [onSession] using hgate
    obtain rfl := Host.Outcome.next.inj ((exec_advance_of_created n hc).symm.trans hexec)
    exact ⟨Session.ahead_discard hcur n, .inl rfl⟩

/-! ## Runs -/

theorem exec_of_execAll_cons {i : Instr} {rest : List Instr} {s t : State} (h : execAll (i :: rest) s = .next t) :
    ∃ u, exec i s = .next u ∧ execAll rest u = .next t := by
  cases hi : exec i s with
  | next u => exact ⟨u, rfl, by rw [← execAll_cons_of_next rest hi, h]⟩
  | fault f => simp [execAll, hi] at h
  | refused r => simp [execAll, hi] at h

theorem execAll_keeps_mark (is : List Instr) {s t : State} (hc : s.created = true) (hmark : s.session.refused = true)
    (h : execAll is s = .next t) : t.session.refused = true := by
  induction is generalizing s with
  | nil =>
    obtain rfl := Host.Outcome.next.inj h
    exact hmark
  | cons i rest ih =>
    obtain ⟨u, hu, hrest⟩ := exec_of_execAll_cons h
    exact ih (exec_keeps_created hc hu) (exec_keeps_mark hc hmark hu) hrest

/-- Of a run that ends without the mark no operation was refused, so each gave its result. -/
theorem execAll_results (is : List Instr) {s t : State} (hc : s.created = true) (h : execAll is s = .next t)
    (ht : t.session.refused = false) : ∃ rs, t.results = s.results ++ rs ∧ rs.length = is.length := by
  induction is generalizing s with
  | nil =>
    obtain rfl := Host.Outcome.next.inj h
    exact ⟨[], by simp, rfl⟩
  | cons i rest ih =>
    obtain ⟨u, hu, hrest⟩ := exec_of_execAll_cons h
    have hcu := exec_keeps_created hc hu
    obtain ⟨r, hr, -, -⟩ | ⟨r, rfl⟩ := oneResultOrRefusal i s u hu
    · obtain ⟨rs, hrs, hlen⟩ := ih hcu hrest
      exact ⟨r :: rs, by rw [hrs, hr, List.append_assoc, List.singleton_append], by simp [hlen]⟩
    · have hmark := execAll_keeps_mark rest hcu rfl hrest
      exact absurd (hmark.symm.trans ht) (by simp)

/-- Settles O55: the observation by cases on the mark, the results by `execAll_results`. -/
theorem observationOfRun : Obligations.ObservationOfRun :=
  ⟨fun s hmark => if_pos hmark, fun s hmark => if_neg (by simp [hmark]),
    fun is _ _ hrun _ hc ht => execAll_results is hc hrun ht⟩

end Sys2Proof.Machine
end

section
/-! Proofs of a packet's properties and of its reception (41_frame_encoder.md R80, 42_stream_parser.md R82 to R88,
70_reset_and_hazards.md R118, R119). -/

namespace Sys2Proof.Machine

open Sys2Proof

/-! ## The packet of an accepted descriptor -/

/-- The header bytes `ft`, `a` and `cmd` are those of the descriptor `f`, which ENCODE accepts. -/
structure FrameHeader (bd : BcastDevType) (f : FrameDesc) (ft : Byte) (a : List Byte) (cmd : Byte) : Prop where
  frameType : ft.toNat = f.frameType
  delimiter : isDelimiter ft = true
  width : widthOf ft = descWidth f.address
  address : addrBytes bd f.address = .ok a
  addressLength : a.length = (descWidth f.address).bytes
  command : cmd.toNat = f.command
  payloadLength : f.payload.length ≤ 255

theorem toNat_ofNat_byte {n : Nat} (h : n ≤ 255) : (BitVec.ofNat 8 n).toNat = n :=
  (BitVec.toNat_ofNat n 8).trans (Nat.mod_eq_of_lt (by omega))

/-- The frame type byte of an accepted descriptor is a delimiter, and selects the width of its address. -/
theorem frameTypeByte_of_wellFormed {f : FrameDesc} (h : f.WellFormed) :
    (BitVec.ofNat 8 f.frameType).toNat = f.frameType ∧ isDelimiter (BitVec.ofNat 8 f.frameType) = true ∧
      widthOf (BitVec.ofNat 8 f.frameType) = descWidth f.address := by
  obtain ⟨hft, hwidth⟩ := (widthConsistent_iff f).mp h.1
  rw [← hwidth]
  obtain h | h | h | h := (isFrameType_iff _).mp hft <;> rw [h] <;> decide

theorem frameHeader_of_wellFormed (bd : BcastDevType) {f : FrameDesc} (h : f.WellFormed) :
    FrameHeader bd f (BitVec.ofNat 8 f.frameType) (wireBytes bd f.address) (BitVec.ofNat 8 f.command) := by
  obtain ⟨hft, hdel, hwidth⟩ := frameTypeByte_of_wellFormed h
  obtain ⟨-, haddr, hcmd, hpl⟩ := h
  exact ⟨hft, hdel, hwidth, addrBytes_ok bd haddr, wireBytes_length bd _, toNat_ofNat_byte hcmd, hpl⟩

/-- A packet ENCODE returns is the one of R78, of an accepted descriptor. -/
theorem packet_of_exec_encode {f : FrameDesc} {npre : Nat} {s : State} {pk : List Byte}
    (h : exec (.encode f npre) s = .next { s with results := s.results ++ [.bytes pk] }) :
    ∃ ft a cmd, FrameHeader s.session.cfg.bcast f ft a cmd ∧ pk = assemblePacket npre ft a cmd f.payload := by
  have hres : encoderResult (encodePacket s.session.cfg.bcast f npre) = .bytes pk := by
    simpa [exec, execEncode, State.deliver] using h
  cases hpk : encodePacket s.session.cfg.bcast f npre with
  | error e => simp [hpk, encoderResult] at hres
  | ok bs =>
    obtain rfl : bs = pk := by simpa [hpk, encoderResult] using hres
    obtain ⟨hf, hn⟩ := wellFormed_of_encodePacket hpk
    exact ⟨_, _, _, frameHeader_of_wellFormed _ hf, Except.ok.inj (hpk.symm.trans (encodePacket_ok _ hf hn))⟩

section

variable {bd : BcastDevType} {f : FrameDesc} {ft cmd : Byte} {a : List Byte}

theorem FrameHeader.length_eq (h : FrameHeader bd f ft a cmd) : a.length = (widthOf ft).bytes :=
  h.addressLength.trans (congrArg _ h.width.symm)

theorem FrameHeader.exec_encodeAddress {s : State} (h : FrameHeader s.session.cfg.bcast f ft a cmd) :
    exec (.encodeAddress f.address) s = .next { s with results := s.results ++ [.bytes a] } := by
  rw [exec, execEncodeAddress, h.address]
  rfl

end

/-- The body of the packet with payload `p` (30_encoding.md R54, 41_frame_encoder.md R78). -/
def packetBody (ft : Byte) (a : List Byte) (cmd : Byte) (p : List Byte) : List Byte :=
  bodyBytes ft a cmd (BitVec.ofNat 8 p.length) p

section

variable (npre : Nat) (ft : Byte) (a : List Byte) (cmd : Byte) (p : List Byte)

theorem packetBody_eq : packetBody ft a cmd p = ft :: a ++ cmd :: BitVec.ofNat 8 p.length :: p :=
  bodyBytes_eq ..

theorem assemblePacket_eq_body : assemblePacket npre ft a cmd p =
    List.replicate npre 0xFF#8 ++ (packetBody ft a cmd p ++ [xorfold (packetBody ft a cmd p)]) :=
  List.append_assoc ..

theorem assemblePacket_length : (assemblePacket npre ft a cmd p).length = npre + a.length + p.length + 4 := by
  simp only [assemblePacket_eq, List.length_append, List.length_replicate, List.length_cons, List.length_nil]
  omega

theorem assemblePacket_drop : (assemblePacket npre ft a cmd p).drop npre =
    packetBody ft a cmd p ++ [xorfold (packetBody ft a cmd p)] := by
  simp [assemblePacket_eq_body]

end

/-- Settles O22: the packet is the preamble, the body and the body's fold. -/
theorem packetProperties : Obligations.PacketProperties := by
  intro f npre s pk hexec
  obtain ⟨ft, a, cmd, hdr, rfl⟩ := packet_of_exec_encode hexec
  refine ⟨?_, ?_, ?_, ?_, ?_⟩
  · rw [assemblePacket_length, hdr.addressLength]
    cases f.address <;> rfl
  · simp [assemblePacket_eq, ← hdr.frameType]
  · simp [assemblePacket_eq_body]
  · rw [assemblePacket_drop, List.dropLast_concat]
    simp [assemblePacket_eq_body]
  · rw [assemblePacket_drop, xorfold_append, xorfold_cons, xorfold_nil, BitVec.xor_zero, BitVec.xor_self]

/-! ## One field of a packet -/

/-- The session past a run of `n` preamble bytes that `MAX_PRE` allows. -/
def Session.pastRun (s : Session) (n : Nat) : Session :=
  { s.consume n with pcount := s.pcount + n }

section

variable {s : Session} {b : Byte} {rest : List Byte}

/-- Past the bytes `xs` the ones behind them are unconsumed. -/
theorem Session.avail_past {t : Session} {xs : List Byte} (hav : s.avail = xs ++ rest) (hbuf : t.buf = s.buf)
    (hcur : t.cur = s.cur + xs.length) : t.avail = rest := by
  calc t.avail
      = (s.consume xs.length).avail := Session.avail_congr hbuf hcur
    _ = rest := by rw [s.avail_consume, hav, List.drop_left]

theorem Session.scan_preamble_run (n : Nat) (hav : s.avail = List.replicate n 0xFF#8 ++ rest)
    (hst : s.st = .preamble) (hmax : s.pcount + n ≤ s.cfg.maxPre) :
    s.scan = (s.pastRun n).scan ∧ (s.pastRun n).avail = rest := by
  refine ⟨?_, Session.avail_past hav rfl (by simp [pastRun])⟩
  induction n generalizing s with
  | zero => rfl
  | succ n ih =>
    have hnext : (s.pastRun 1).avail = List.replicate n 0xFF#8 ++ rest :=
      Session.avail_past (xs := [0xFF#8]) hav rfl rfl
    have hone : s.scan = (s.pastRun 1).scan := Session.scan_preamble_count hst hav rfl (by omega)
    rw [hone, ih hnext hst (by show s.pcount + 1 + n ≤ s.cfg.maxPre; omega)]
    simp only [pastRun, consume, Nat.add_assoc, Nat.add_comm 1 n]

theorem Session.scan_delimiter (hav : s.avail = b :: rest) (hst : s.st = .preamble)
    (hmin : s.cfg.minPre ≤ s.pcount) (hb : isDelimiter b = true) :
    s.scan =
      Session.scan { s.consume 1 with ftype := some b, awidth := some (widthOf b), st := .address } ∧
      Session.avail { s.consume 1 with ftype := some b, awidth := some (widthOf b), st := .address } = rest := by
  have hne : b ≠ 0xFF#8 := by
    rintro rfl
    exact absurd hb (by decide)
  refine ⟨?_, Session.avail_past (xs := [b]) hav rfl rfl⟩
  rw [Session.scan_preamble_end hst hav hne hmin.not_gt]
  exact Session.scan_frameType_accept (s := { s with st := .frameType }) rfl hav hb

theorem Session.scan_address {w : AddressWidth} {a : List Byte} (hav : s.avail = a ++ rest) (hst : s.st = .address)
    (hw : s.awidth = some w) (hlen : a.length = w.bytes) :
    s.scan = Session.scan { s.consume a.length with addr := some a, st := .command } ∧
      Session.avail { s.consume a.length with addr := some a, st := .command } = rest := by
  refine ⟨?_, Session.avail_past hav rfl rfl⟩
  rw [Session.scan_address_accept hst hw (by simp [hav, hlen]), ← hlen, hav, List.take_left]

theorem Session.scan_command (hav : s.avail = b :: rest) (hst : s.st = .command) :
    s.scan = Session.scan { s.consume 1 with cmd := some b, st := .byteCount } ∧
      Session.avail { s.consume 1 with cmd := some b, st := .byteCount } = rest :=
  ⟨Session.scan_command_accept hst hav, Session.avail_past (xs := [b]) hav rfl rfl⟩

theorem Session.scan_byteCount (hav : s.avail = b :: rest) (hst : s.st = .byteCount) (hb : b ≤ s.cfg.maxBc) :
    s.scan = Session.scan { s.consume 1 with bc := some b, st := .data } ∧
      Session.avail { s.consume 1 with bc := some b, st := .data } = rest :=
  ⟨Session.scan_byteCount_accept hst hav (BitVec.not_lt.mpr hb), Session.avail_past (xs := [b]) hav rfl rfl⟩

theorem Session.scan_data {d : List Byte} (hav : s.avail = d ++ rest) (hst : s.st = .data) (hn : s.bc = some b)
    (hlen : d.length = b.toNat) :
    s.scan = Session.scan { s.consume d.length with data := some d, st := .checksum } ∧
      Session.avail { s.consume d.length with data := some d, st := .checksum } = rest := by
  refine ⟨?_, Session.avail_past hav rfl rfl⟩
  rw [Session.scan_data_accept hst hn (by simp [hav, hlen]), ← hlen, hav, List.take_left]

end

/-! ## A whole packet -/

/-- The session past a packet's header: preamble, frame type, address and command. -/
def Session.pastHeader (s : Session) (npre : Nat) (ft : Byte) (a : List Byte) (cmd : Byte) : Session :=
  { s.consume (npre + 1 + a.length + 1) with
    st := .byteCount, pcount := npre, ftype := some ft, awidth := some (widthOf ft), addr := some a, cmd := some cmd }

/-- The session past a packet's body: the header, the byte count and the payload. -/
def Session.pastBody (s : Session) (npre : Nat) (ft : Byte) (a : List Byte) (cmd : Byte) (p : List Byte) : Session :=
  { (s.pastHeader npre ft a cmd).consume (1 + p.length) with
    st := .checksum, bc := some (BitVec.ofNat 8 p.length), data := some p }

/-- A receiver at the start of a frame that accepts a preamble of `npre` bytes. -/
structure Session.Accepts (s : Session) (npre : Nat) : Prop where
  st : s.st = .preamble
  pcount : s.pcount = 0
  minPre : s.cfg.minPre ≤ npre
  maxPre : npre ≤ s.cfg.maxPre

section

variable {s : Session} {npre : Nat} {ft cmd r : Byte} {a p rest : List Byte}

theorem Session.Accepts.append (h : s.Accepts npre) (xs : List Byte) : (s.append xs).Accepts npre :=
  ⟨h.st, h.pcount, h.minPre, h.maxPre⟩

/-- The header of a packet is consumed, and its fields are held. -/
theorem Session.Accepts.scan_header (h : s.Accepts npre)
    (hav : s.avail = List.replicate npre 0xFF#8 ++ (ft :: a ++ cmd :: rest)) (hft : isDelimiter ft = true)
    (ha : a.length = (widthOf ft).bytes) :
    s.scan = (s.pastHeader npre ft a cmd).scan ∧ (s.pastHeader npre ft a cmd).avail = rest := by
  obtain ⟨hst, hp, hmin, hmax⟩ := h
  obtain ⟨hpre, hav₁⟩ := Session.scan_preamble_run npre hav hst (by omega)
  obtain ⟨hdel, hav₂⟩ :=
    Session.scan_delimiter hav₁ hst (by show s.cfg.minPre ≤ s.pcount + npre; omega) hft
  obtain ⟨haddr, hav₃⟩ := Session.scan_address hav₂ rfl rfl ha
  obtain ⟨hcmd, hav₄⟩ := Session.scan_command hav₃ rfl
  have hpast := hpre.trans (hdel.trans (haddr.trans hcmd))
  simp only [Session.pastRun, Session.consume, hp, Nat.zero_add, Nat.add_assoc] at hpast hav₄
  simp only [Session.pastHeader, Session.consume, Nat.add_assoc]
  exact ⟨hpast, hav₄⟩

/-- So is the body of a packet whose payload `MAX_BC` allows. -/
theorem Session.Accepts.scan_body (h : s.Accepts npre)
    (hav : s.avail = List.replicate npre 0xFF#8 ++ (packetBody ft a cmd p ++ rest)) (hft : isDelimiter ft = true)
    (ha : a.length = (widthOf ft).bytes) (hlen : p.length ≤ s.cfg.maxBc.toNat) :
    s.scan = (s.pastBody npre ft a cmd p).scan ∧ (s.pastBody npre ft a cmd p).avail = rest := by
  have hcount : (BitVec.ofNat 8 p.length).toNat = p.length := toNat_ofNat_byte (by omega)
  have hle : BitVec.ofNat 8 p.length ≤ s.cfg.maxBc := by rwa [BitVec.le_def, hcount]
  rw [packetBody_eq] at hav
  obtain ⟨hhead, hav₁⟩ :=
    h.scan_header (rest := BitVec.ofNat 8 p.length :: (p ++ rest)) (by simpa using hav) hft ha
  obtain ⟨hbc, hav₂⟩ := Session.scan_byteCount hav₁ rfl hle
  obtain ⟨hdata, hav₃⟩ := Session.scan_data hav₂ rfl rfl hcount.symm
  have hpast := hhead.trans (hbc.trans hdata)
  simp only [Session.consume, Nat.add_assoc] at hpast hav₃
  simp only [Session.pastBody, Session.consume]
  exact ⟨hpast, hav₃⟩

/-- The frame a receiver reads from a packet. -/
def packetFrame (ft : Byte) (a : List Byte) (cmd : Byte) (p : List Byte) : ParsedFrame :=
  { frameType := ft, address := a, command := cmd, byteCount := BitVec.ofNat 8 p.length, payload := p,
    checksum := xorfold (packetBody ft a cmd p) }

theorem Session.frameRead_pastBody : (s.pastBody npre ft a cmd p).frameRead r = .ok
    { packetFrame ft a cmd p with checksum := r } := rfl

/-- A packet is consumed to its last byte, and gives its frame. -/
theorem Session.Accepts.scan_packet (h : s.Accepts npre) (hav : s.avail = assemblePacket npre ft a cmd p ++ rest)
    (hft : isDelimiter ft = true) (ha : a.length = (widthOf ft).bytes) (hlen : p.length ≤ s.cfg.maxBc.toNat) :
    s.scan = (((s.pastBody npre ft a cmd p).consume 1).resetParse, .frame (packetFrame ft a cmd p)) := by
  obtain ⟨hbody, hav₁⟩ := h.scan_body (rest := xorfold (packetBody ft a cmd p) :: rest)
    (by simpa [assemblePacket_eq_body] using hav) hft ha hlen
  rw [hbody]
  exact Session.scan_checksum_match rfl hav₁ Session.frameRead_pastBody rfl

/-- At the start of a frame there is nothing to reset. -/
theorem Session.resetParse_eq_self (hinv : s.Inv) (hst : s.st = .preamble) (hp : s.pcount = 0) :
    s.resetParse = s := by
  have hfields := hinv.fields
  simp only [FieldsValid, hst] at hfields
  obtain ⟨hft, hw, ha, hcmd, hbc, hdata⟩ := hfields
  cases s
  simp_all [resetParse]

/-- A packet's frame leaves the receiver at the start of a frame, with the packet's bytes consumed. -/
theorem Session.resetParse_pastBody (xs : List Byte) :
    (((s.append xs).pastBody npre ft a cmd p).consume 1).resetParse = { s.resetParse with
      buf := s.buf ++ xs, cur := s.cur + (assemblePacket npre ft a cmd p).length } := by
  have hcur : s.cur + (npre + 1 + a.length + 1) + (1 + p.length) + 1 =
      s.cur + (assemblePacket npre ft a cmd p).length := by
    rw [assemblePacket_length]
    omega
  rw [← hcur]
  rfl

end

/-! ## Reception -/

theorem Session.avail_append_of_empty {s : Session} (hcur : s.cur ≤ s.buf.length) (hav : s.avail = [])
    (xs : List Byte) : (s.append xs).avail = xs := by
  rw [s.avail_append xs hcur, hav, List.nil_append]

/-- Where all the bytes take a scan beyond the first of them, those alone let it wait. -/
theorem State.CanTake.waits_of_cur_gt {s : State} {xs ys : List Byte} (h : s.CanTake xs.length)
    (hgt : s.session.buf.length + xs.length < (s.session.append (xs ++ ys)).scan.1.cur) :
    ∃ k, (s.session.append xs).scan.2 = .needMore k := by
  by_contra hno
  have hall := State.scan_append_of_decided h (fun k hk => hno ⟨k, hk⟩) ys
  have hle := Session.scan_cursor _ h.inv_append.cursor
  rw [hall, Session.append_cur] at hgt
  rw [Session.append_buf, List.length_append] at hle
  omega

theorem State.CanTake.cur_eq_of_empty {s : State} {n : Nat} (h : s.CanTake n) (hav : s.session.avail = []) :
    s.session.cur = s.session.buf.length := by
  have hlen := s.session.avail_length
  have hcur := h.inv.cursor
  rw [hav, List.length_nil] at hlen
  omega

/-- A receiver at the start of a frame takes a packet whole, whatever stands behind it. -/
theorem State.CanTake.scan_append_packet {s : State} {npre : Nat} {ft cmd : Byte} {pk a p behind : List Byte}
    (h : s.CanTake (pk ++ behind).length) (hpk : pk = assemblePacket npre ft a cmd p)
    (hacc : s.session.Accepts npre) (hav : s.session.avail = []) (hft : isDelimiter ft = true)
    (ha : a.length = (widthOf ft).bytes) (hlen : p.length ≤ s.session.cfg.maxBc.toNat) :
    (s.session.append (pk ++ behind)).scan =
      ({ s.session with buf := s.session.buf ++ (pk ++ behind), cur := s.session.buf.length + pk.length },
        .frame (packetFrame ft a cmd p)) := by
  subst hpk
  rw [(hacc.append _).scan_packet (Session.avail_append_of_empty h.inv.cursor hav _) hft ha hlen,
    Session.resetParse_pastBody, Session.resetParse_eq_self h.inv hacc.st hacc.pcount, h.cur_eq_of_empty hav]

/-- Settles O44: the scan reads the packet field by field and takes it whole, so fewer of its bytes leave it waiting. -/
theorem roundTrip : Obligations.RoundTrip := by
  intro f npre s pk a' behind hinv hc henc haddr hmin hmax hlen hst hp hav hcap
  obtain ⟨ft, a, cmd, hdr, hpk⟩ := packet_of_exec_encode henc
  obtain rfl : a' = a := by simpa [eq_comm] using hdr.exec_encodeAddress.symm.trans haddr
  have hacc : s.session.Accepts npre := ⟨hst, hp, hmin, hmax⟩
  have htake : s.CanTake (pk ++ behind).length := ⟨hinv, hc, (capAdmits_iff _ _).mpr (by simpa [hav] using hcap)⟩
  have hscan := htake.scan_append_packet hpk hacc hav hdr.delimiter hdr.length_eq hlen
  refine ⟨⟨packetFrame ft a' cmd f.payload, ?_, hdr.frameType, rfl, hdr.command,
    toNat_ofNat_byte hdr.payloadLength, rfl⟩, fun xs ys hsplit hys => ?_⟩
  · rw [htake.exec_feed (ScanOutcome.returns_frame_iff.mpr (congrArg Prod.snd hscan)), hscan]
  · have hpacket : s.CanTake (pk ++ []).length := htake.mono (by simp)
    have hfirst : s.CanTake xs.length := htake.mono (by simp [hsplit])
    obtain ⟨k, hk⟩ : ∃ k, (s.session.append xs).scan.2 = .needMore k := by
      refine hfirst.waits_of_cur_gt (ys := ys) ?_
      rw [← hsplit, ← List.append_nil pk, hpacket.scan_append_packet hpk hacc hav hdr.delimiter hdr.length_eq hlen]
      show s.session.buf.length + xs.length < s.session.buf.length + pk.length
      simpa [hsplit, List.length_pos_iff] using hys
    exact ⟨_, hfirst.exec_feed_needMore hk, rfl⟩

/-- Settles O45: the scan reads the same body, and then a byte that is not its checksum. -/
theorem corruptedChecksumRejected : Obligations.CorruptedChecksumRejected := by
  intro f npre s pk c bad hinv hc henc hmin hmax hlen hst hp hav hcap hne
  have htake : s.CanTake (pk ++ [bad]).length := ⟨hinv, hc, (capAdmits_iff _ _).mpr (by simpa [hav] using hcap)⟩
  have hacc : s.session.Accepts npre := ⟨hst, hp, hmin, hmax⟩
  obtain ⟨ft, a, cmd, hdr, hpk⟩ := packet_of_exec_encode henc
  rw [assemblePacket_eq_body, ← List.append_assoc] at hpk
  obtain ⟨rfl, hsum⟩ := List.append_inj' hpk rfl
  obtain rfl := List.singleton_inj.mp hsum
  obtain ⟨hbody, hav₁⟩ := (hacc.append _).scan_body (rest := [bad])
    ((Session.avail_append_of_empty hinv.cursor hav _).trans (List.append_assoc ..)) hdr.delimiter hdr.length_eq hlen
  have hviol := hbody.trans (Session.scan_checksum_mismatch rfl hav₁ Session.frameRead_pastBody hne)
  exact ⟨_, htake.exec_feed (res := .violation _) (by rw [hviol]; rfl), rfl⟩

/-- Settles O47: the scan reads the header, and then a byte count above `MAX_BC`. -/
theorem longPayloadRejected : Obligations.LongPayloadRejected := by
  intro f npre s pk hinv hc henc hmin hmax hlong hst hp hav hcap
  have htake : s.CanTake pk.length := ⟨hinv, hc, (capAdmits_iff _ _).mpr (by simpa [hav] using hcap)⟩
  have hacc : s.session.Accepts npre := ⟨hst, hp, hmin, hmax⟩
  obtain ⟨ft, a, cmd, hdr, rfl⟩ := packet_of_exec_encode henc
  obtain ⟨hhead, hav₁⟩ := (hacc.append _).scan_header
    ((Session.avail_append_of_empty hinv.cursor hav _).trans (assemblePacket_eq ..)) hdr.delimiter hdr.length_eq
  have hgt : BitVec.ofNat 8 f.payload.length > s.session.cfg.maxBc := by
    rwa [gt_iff_lt, BitVec.lt_def, toNat_ofNat_byte hdr.payloadLength]
  have hviol := hhead.trans (Session.scan_byteCount_tooLarge rfl hav₁ hgt)
  exact ⟨_, htake.exec_feed (res := .violation _) (by rw [hviol]; rfl), rfl⟩

/-! ## The length of the preamble -/

section

variable {s : Session} {n : Nat} {b : Byte} {rest : List Byte}

theorem Session.scan_run_tooShort (hav : s.avail = List.replicate n 0xFF#8 ++ b :: rest) (hst : s.st = .preamble)
    (hp : s.pcount = 0) (hb : b ≠ 0xFF#8) (hmax : n ≤ s.cfg.maxPre) (hlt : n < s.cfg.minPre) :
    s.scan.2 = .violation (.insufficientPreamble b n) := by
  obtain ⟨hrun, hav₁⟩ := Session.scan_preamble_run n hav hst (by omega)
  have hcount : (s.pastRun n).pcount = n := by simp [pastRun, hp]
  rw [hrun, Session.scan_preamble_insufficient (s := s.pastRun n) hst hav₁ hb (hcount.trans_lt hlt), hcount]

theorem Session.scan_run_tooLong (hav : s.avail = List.replicate n 0xFF#8 ++ b :: rest) (hst : s.st = .preamble)
    (hp : s.pcount = 0) (hlt : s.cfg.maxPre < n) :
    s.scan.2 = .violation (.preambleTooLong 0xFF#8 s.cfg.maxPre) := by
  obtain ⟨k, rfl⟩ := Nat.exists_eq_add_of_lt hlt
  rw [Nat.add_assoc, List.replicate_add, List.append_assoc, List.replicate_succ, List.cons_append] at hav
  obtain ⟨hrun, hav₁⟩ := Session.scan_preamble_run s.cfg.maxPre hav hst (by omega)
  have hcount : (s.pastRun s.cfg.maxPre).pcount = s.cfg.maxPre := by simp [pastRun, hp]
  rw [hrun, Session.scan_preamble_tooLong (s := s.pastRun s.cfg.maxPre) hst hav₁ rfl hcount, hcount]

theorem Session.scan_run_invalid (hav : s.avail = List.replicate n 0xFF#8 ++ b :: rest) (hst : s.st = .preamble)
    (hp : s.pcount = 0) (hb : b ≠ 0xFF#8) (hmin : s.cfg.minPre ≤ n) (hmax : n ≤ s.cfg.maxPre)
    (hdel : isDelimiter b = false) : s.scan.2 = .violation (.invalidDelimiter b) := by
  obtain ⟨hrun, hav₁⟩ := Session.scan_preamble_run n hav hst (by omega)
  have hcount : (s.pastRun n).pcount = n := by simp [pastRun, hp]
  rw [hrun, Session.scan_preamble_end (s := s.pastRun n) hst hav₁ hb (hcount.symm ▸ hmin.not_gt),
    Session.scan_frameType_invalid (s := { s.pastRun n with st := .frameType }) rfl hav₁ hdel]

end

/-- Settles O46: the run is counted as far as `MAX_PRE`, and what follows decides. -/
theorem preambleBounds : Obligations.PreambleBounds := by
  intro n b rest s hinv hc hb hst hp hav hcap
  have htake : s.CanTake (List.replicate n 0xFF#8 ++ b :: rest).length :=
    ⟨hinv, hc, (capAdmits_iff _ _).mpr (by simpa [hav, Nat.add_assoc, Nat.add_comm 1] using hcap)⟩
  have hrun := Session.avail_append_of_empty hinv.cursor hav (List.replicate n 0xFF#8 ++ b :: rest)
  obtain ⟨res, hres⟩ := htake.inv_append.exists_returns
  refine ⟨_, htake.exec_feed hres, fun hshort => ?_, fun hlong => ?_, fun hmin hmax hdel => ?_⟩
  · have hlegal : s.session.cfg.minPre ≤ s.session.cfg.maxPre := hinv.config.1
    rw [Session.scan_run_tooShort hrun hst hp hb (hshort.le.trans hlegal) hshort] at hres
    rw [hres]
  · rw [Session.scan_run_tooLong hrun hst hp hlong] at hres
    rw [hres, Session.append_cfg]
  · rw [← isDelimiter_iff, Bool.not_eq_true] at hdel
    rw [Session.scan_run_invalid hrun hst hp hb hmin hmax hdel] at hres
    rw [hres]

end Sys2Proof.Machine
end
